-- ==== Sys2Proof/Word.lean ====
section
/-! DEFINITION. The bit-vector types of the DCP transceiver: bytes of a frame, the 32-bit cycle
counters (10_state.md R27, CNT_W of 00_scope.md R7) and the 16-bit violation mask (30_encoding.md R126). -/

namespace Sys2Proof

/-- Eight bits, bit 7 the most significant and the first on the line (00_scope.md R15). -/
abbrev Byte := BitVec 8

/-- A cycle count in a register of CNT_W = 32 bits (40_bit_codec.md R153). -/
abbrev Count := BitVec 32

/-- The violation set as a 16-bit mask (30_encoding.md R126). -/
abbrev Mask := BitVec 16

end Sys2Proof
end

