-- ==== Sys2Proof/Config.lean ====
section
/-! DEFINITION. What an implementation fixes: the constants of 00_scope.md R7 that the document or the
spec's decisions give a value, the OPEN parameters as plain data, their constraints, and the two values
no spec text fixes (the parameter set itself and CHECKSUM_FN), which are opaque. -/

namespace Sys2Proof.Config

/-- GUARD_CYC: the guard phase, 150 cycles at every grade (R7, R10). -/
abbrev guardCyc : Nat := 150

/-- K_SYNC_LOW = K_LOW_TMO: the bound of every wait for the line to rise, in units (R7). -/
abbrev lowTmoUnits : Nat := 10

/-- K_SYNC_HIGH: the shortest accepted high phase after SYNC, in units (R7). -/
abbrev syncHighUnits : Nat := 6

/-- K_HIGH_TMO: the hard timeout of every measured high phase, in units (R7). -/
abbrev highTmoUnits : Nat := 25

/-- BS_HIGH_U = BS_LOW_U: each bit-sync phase, in units (R7). -/
abbrev bitSyncUnits : Nat := 8

/-- L3_LEN: the structured frame's length in bytes (R7). -/
abbrev l3Len : Nat := 12

/-- MAX_FRAME: the longest frame, and the size of each of the four buffers (R7, R71). -/
abbrev maxFrame : Nat := 255

/-- INJ_BITS: the cells the forced-yield probe injects (R7). -/
abbrev injBits : Nat := 8

/-- One natural number for each of the NGRADES = 4 speed grades, `g0` the slowest (R7, R24). -/
structure PerGrade where
  g0 : Nat
  g1 : Nat
  g2 : Nat
  g3 : Nat
deriving DecidableEq, Repr, Inhabited

/-- The OPEN parameters of R7, and the level of the port `pin_ok` where no input states one. All durations
are in cycles. `syncMin` is SYNC_MIN_CYC, given for each grade because its constraint speaks of the active
grade's DELTA. -/
structure Params where
  delta : PerGrade
  tol : PerGrade
  syncLowHuCtrl : Nat
  syncLowHuDev : Nat
  ringBytes : Nat
  inqDepth : Nat
  outqDepth : Nat
  inqWaitCyc : Nat
  uInf : Nat
  syncMin : PerGrade
  tmoElec : Nat
  tmoTiming : Nat
  tmoYield : Nat
  pinOk : Bool
deriving DecidableEq, Repr, Inhabited

/-- The member of a four-grade table for a grade code (R24). -/
def PerGrade.get (p : PerGrade) (g : BitVec 2) : Nat :=
  match g.toNat with
  | 0 => p.g0
  | 1 => p.g1
  | 2 => p.g2
  | _ => p.g3

/-- The constraint of R7 on the tolerance of a grade, which it states for each of the four. -/
def Params.tolOk (p : Params) (g : BitVec 2) : Bool :=
  decide (0 < p.tol.get g) && decide (2 * p.tol.get g < p.delta.get g)

/-- The constraints of R7 that are "for the active grade" `g`, or name DELTA without an index and so mean it (R8): both
SYNC lengths and SYNC_MIN_CYC. -/
def Params.fitsGrade (p : Params) (g : BitVec 2) : Bool :=
  decide (guardCyc < p.syncLowHuCtrl * p.delta.get g / 2)
  && decide (p.syncLowHuCtrl * p.delta.get g / 2 ≤ lowTmoUnits * p.delta.get g)
  && decide (guardCyc < p.syncLowHuDev * p.delta.get g / 2)
  && decide (p.syncLowHuDev * p.delta.get g / 2 ≤ lowTmoUnits * p.delta.get g)
  && decide (0 < p.syncMin.get g) && decide (p.syncMin.get g ≤ lowTmoUnits * p.delta.get g)

/-- The constraints of R7 that do not depend on the active grade. -/
def Params.legal (p : Params) : Bool :=
  decide (p.delta.g0 = 10 * p.delta.g1) && decide (p.delta.g1 = 10 * p.delta.g2)
  && decide (p.delta.g2 = 10 * p.delta.g3)
  && decide (15 ≤ p.delta.g3) && decide (261 * p.delta.g0 < 2 ^ 32)
  && p.tolOk 0 && p.tolOk 1 && p.tolOk 2 && p.tolOk 3
  && decide (255 ≤ p.ringBytes) && decide (1 ≤ p.inqDepth) && decide (1 ≤ p.outqDepth)
  && decide (p.inqWaitCyc < 2 ^ 32)
  && decide (0 < p.uInf) && decide (p.uInf % 2 = 0)
  && decide (p.tmoElec < 2 ^ 32) && decide (p.tmoTiming < 2 ^ 32) && decide (p.tmoYield < 2 ^ 32)

/-- All the constraints of R7 with `g` as the active grade. A set that breaks one is outside the spec
(93_implementation_defined.md U13; entry 20). -/
def Params.legalFor (p : Params) (g : BitVec 2) : Bool := p.legal && p.fitsGrade g

/-- The parameter set of the machine that `State.reset` describes: no value of it is known (entry 2). -/
opaque params : Params

/-- CHECKSUM_FN, of bytes 0 to 10 of a structured frame: the algorithm is not in the source
(R7, 41_frame_format.md R166; entry 3). -/
opaque checksumFn : List Byte → Byte

end Sys2Proof.Config
end

