-- ==== Sys2Proof/Syntax.lean ====
section
/-! DEFINITION. The operations of the DCP transceiver: one constructor for each row of
spec/opcode_table.json, that is the 24 operations of 30_encoding.md R120, the two frame formats (R107, R108)
and the five line symbols (R102 to R105). Operand kinds are R121; start and end cycles are arguments of the
model's functions and not operands (R121; entry 26). -/

namespace Sys2Proof

/-- The Bus Mode record (10_state.md R24, 30_encoding.md R121). `ctrl` is 1 for a controller, `rdpol` is 1
for the ASYNC policy, `grade` is 0 for the slowest grade. -/
structure BusMode where
  addr : Byte
  ctrl : Bool
  rdpol : Bool
  grade : BitVec 2
deriving DecidableEq, Repr, Inhabited

/-- The six payload bytes DATA[0] to DATA[5] of a structured frame (30_encoding.md R107). -/
structure Payload where
  d0 : Byte
  d1 : Byte
  d2 : Byte
  d3 : Byte
  d4 : Byte
  d5 : Byte
deriving DecidableEq, Repr, Inhabited

/-- The ten fields of a structured frame (30_encoding.md R107, R111). -/
structure Structured where
  soh : Byte
  src : Byte
  dst : Byte
  opc : Byte
  data : Payload
  pad : Byte
  chk : Byte
deriving DecidableEq, Repr, Inhabited

/-- The Frame as data: "a tagged union over two shapes" (30_encoding.md R111). -/
inductive Frame where
  | structured (f : Structured)
  | generic (len : Byte) (body : List Byte)
deriving DecidableEq, Repr, Inhabited

/-- The wait operand of SUBMIT: a number of cycles below 2^32, or FOREVER (30_encoding.md R121). -/
inductive Wait where
  | cycles (n : Count)
  | forever
deriving DecidableEq, Repr, Inhabited

/-- The rows of spec/opcode_table.json, in its order. -/
inductive Instr where
  | sampleBit
  | sampleByte
  | driveBit (v : Bool)
  | decodeHeader (t : Byte)
  | serialize (f : Frame)
  | deserialize (b : List Byte)
  | validate (b : List Byte)
  | rxFrame
  | startFrame
  | sendByte (b : Byte)
  | sendFrame (b : List Byte)
  | arbWaiting
  | arbListening
  | arbStarting
  | arbSending
  | arbReading
  | init (m : BusMode)
  | submit (b : List Byte) (w : Wait)
  | retrieve
  | readStatus
  | diagElec
  | diagTiming
  | diagYield
  | inferGrade (w : Count)
  | frameStructured (src dst opc : Byte) (data : Payload) (pad chk : Byte)
  | frameGeneric (len : Byte) (body : List Byte)
  | symSync
  | symBitsync
  | symBit0
  | symBit1
  | frameOnLine (b : List Byte)
deriving DecidableEq, Repr, Inhabited

/-- Who issues an operation: HOST through the host interface, or one of the block's own agents (RX, ARB,
DIAG, the falling edge) or the model, which do not pass through it (30_encoding.md R120). -/
inductive Issuer where
  | host
  | block
deriving DecidableEq, Repr, Inhabited

/-- How long an operation takes. `call`: issued by HOST in one cycle. `arb`: one cycle's step of ARB.
`run`: a function of the line trace that runs to its end, or a pure function that takes no cycle. -/
inductive Kind where
  | call
  | arb
  | run
deriving DecidableEq, Repr

/-- The classes of HOST operations of which at most one each is outstanding (45_host_ops.md R263). -/
inductive CallClass where
  | retrieve
  | submit
  | control
deriving DecidableEq, Repr

end Sys2Proof
end

