-- ==== Sys2Proof/WellFormed.lean ====
section
/-! DEFINITION. Which operands are of the kinds of 30_encoding.md R121: byte sequences of 1 to 255 bytes
whose length fits the first byte where the operation asks it, frames that have their tag's length. SUBMIT and
VALIDATE take any sequence, since they answer E_LENGTH themselves (45_host_ops.md R254, R261; VALIDATE of the empty one
by DESIGN CHOICE, entry 30); only what their record can carry bounds it (entry 5). -/

namespace Sys2Proof

/-- The frame length a tag byte gives (30_encoding.md R109), as a check on operands. -/
def tagLength (t : Byte) : Nat := if t = 0 then Config.l3Len else t.toNat

/-- A byte sequence that is a frame: 1 to 255 bytes, as many as its first byte says (30_encoding.md R109, R113). -/
def isFrameBytes : List Byte → Bool
  | [] => false
  | t :: r => decide (r.length + 1 = tagLength t)

/-- A Frame value is well formed when its tag fits its shape and length (41_frame_format.md R162). -/
def Frame.wellFormed : Frame → Bool
  | .structured f => decide (f.soh = 0)
  | .generic len body => decide (len ≠ 0) && decide (body.length + 1 = len.toNat)

/-- The operand check of every operation. -/
def Instr.wellFormed : Instr → Bool
  | .sampleBit => true
  | .sampleByte => true
  | .driveBit _ => true
  | .decodeHeader _ => true
  | .serialize f => f.wellFormed
  | .deserialize b => decide (1 ≤ b.length) && decide (b.length ≤ Config.maxFrame)
  | .validate b => decide (b.length < 65536)
  | .rxFrame => true
  | .startFrame => true
  | .sendByte _ => true
  | .sendFrame b => isFrameBytes b
  | .arbWaiting => true
  | .arbListening => true
  | .arbStarting => true
  | .arbSending => true
  | .arbReading => true
  | .init _ => true
  | .submit b _ => decide (b.length < 65536)
  | .retrieve => true
  | .readStatus => true
  | .diagElec => true
  | .diagTiming => true
  | .diagYield => true
  | .inferGrade _ => true
  | .frameStructured _ _ _ _ _ _ => true
  | .frameGeneric len body => (Frame.generic len body).wellFormed
  | .symSync => true
  | .symBitsync => true
  | .symBit0 => true
  | .symBit1 => true
  | .frameOnLine b => isFrameBytes b

end Sys2Proof
end

