-- ==== Sys2Proof/Decode.lean ====
section
/-! DEFINITION. Reading an operation from a record of bytes, and writing one. The first byte is the 8-bit
operation id of 30_encoding.md R120. The operand record after it is the model's (the spec gives the interface
no carriage, 20_memory.md R72; entry 5): bytes that are not presented read as zero. The frame formats and line
symbols have no id; FRAME_STRUCTURED is read from its own twelve bytes, which begin with the tag 0x00, an id
R120 leaves reserved, and the others stand behind reserved ids of the model's choosing (entry 6). -/

namespace Sys2Proof

/-- Why a record is not an operation. -/
inductive DecodeError where
  /-- There is no byte. -/
  | emptyRecord
  /-- The id is not in 30_encoding.md R120 nor one of the model's tags. -/
  | reservedId (id : Byte)
  /-- The id is listed; an operand field holds a value outside its kind. -/
  | reservedOperand (id : Byte)
deriving DecidableEq, Repr

/-- Byte `k` of the operand record; a byte that is not presented reads as zero (entry 5). -/
def byteAt (r : List Byte) (k : Nat) : Byte := r.getD k 0

/-- The first `n` bytes of a record, zeros after its end (entry 5). -/
def takeZ : Nat → List Byte → List Byte
  | 0, _ => []
  | n + 1, [] => 0 :: takeZ n []
  | n + 1, b :: r => b :: takeZ n r

/-- A two-byte length field, low byte first (entry 5). -/
def lengthOf (lo hi : Byte) : Nat := lo.toNat + 256 * hi.toNat

/-- A byte sequence behind a two-byte length field. -/
def sequence16 (r : List Byte) : List Byte := takeZ (lengthOf (byteAt r 0) (byteAt r 1)) (r.drop 2)

/-- A byte sequence behind a one-byte length field. -/
def sequence8 (r : List Byte) : List Byte := takeZ (byteAt r 0).toNat (r.drop 1)

/-- A 32-bit count from four bytes, low byte first (entry 5). -/
def countOf (b0 b1 b2 b3 : Byte) : Count := b3 ++ b2 ++ b1 ++ b0

/-- The six payload bytes at offset `k` of a record. -/
def payloadAt (r : List Byte) (k : Nat) : Payload :=
  ⟨byteAt r k, byteAt r (k + 1), byteAt r (k + 2), byteAt r (k + 3), byteAt r (k + 4), byteAt r (k + 5)⟩

/-- The single-bit operand of DRIVE_BIT in a byte: 0 or 1 (30_encoding.md R121). -/
def decodeDriveBit (r : List Byte) : Except DecodeError Instr :=
  if byteAt r 0 = 0 then .ok (.driveBit false)
  else if byteAt r 0 = 1 then .ok (.driveBit true)
  else .error (.reservedOperand 0x03)

/-- The Frame operand of SERIALIZE: shape 0 with twelve field bytes, or shape 1 with the tag and the body. -/
def decodeSerialize (r : List Byte) : Except DecodeError Instr :=
  if byteAt r 0 = 0 then
    .ok (.serialize (.structured
      ⟨byteAt r 1, byteAt r 2, byteAt r 3, byteAt r 4, payloadAt r 5, byteAt r 11, byteAt r 12⟩))
  else if byteAt r 0 = 1 then .ok (.serialize (.generic (byteAt r 1) (sequence16 (r.drop 2))))
  else .error (.reservedOperand 0x11)

/-- The Bus Mode operand of INIT: the address, then bit 0 `ctrl`, bit 1 `rdpol`, bits 3:2 `grade`; bits 7:4
are reserved (10_state.md R24 gives the encodings of the three fields). -/
def decodeInit (r : List Byte) : Except DecodeError Instr :=
  let m := byteAt r 1
  if m.extractLsb' 4 4 = 0 then
    .ok (.init ⟨byteAt r 0, m.getLsbD 0, m.getLsbD 1, m.extractLsb' 2 2⟩)
  else .error (.reservedOperand 0x40)

/-- The operands of SUBMIT: kind 0 and a number of cycles, or kind 1 for FOREVER with four zero bytes; then
the byte sequence. -/
def decodeSubmit (r : List Byte) : Except DecodeError Instr :=
  let n := countOf (byteAt r 1) (byteAt r 2) (byteAt r 3) (byteAt r 4)
  if byteAt r 0 = 0 then .ok (.submit (sequence16 (r.drop 5)) (.cycles n))
  else if byteAt r 0 = 1 ∧ n = 0 then .ok (.submit (sequence16 (r.drop 5)) .forever)
  else .error (.reservedOperand 0x41)

/-- A generic frame's own bytes: the tag N, not 0x00, and N - 1 bytes (30_encoding.md R108). -/
def decodeFrameGeneric (r : List Byte) : Except DecodeError Instr :=
  if byteAt r 0 = 0 then .error (.reservedOperand 0x80)
  else .ok (.frameGeneric (byteAt r 0) (takeZ ((byteAt r 0).toNat - 1) (r.drop 1)))

/-- The operation with this id and these operand bytes (30_encoding.md R120). -/
def decodeId (id : Byte) (r : List Byte) : Except DecodeError Instr :=
  match id.toNat with
  | 0x00 => .ok (.frameStructured (byteAt r 0) (byteAt r 1) (byteAt r 2) (payloadAt r 3) (byteAt r 9) (byteAt r 10))
  | 0x01 => .ok .sampleBit
  | 0x02 => .ok .sampleByte
  | 0x03 => decodeDriveBit r
  | 0x10 => .ok (.decodeHeader (byteAt r 0))
  | 0x11 => decodeSerialize r
  | 0x12 => .ok (.deserialize (sequence16 r))
  | 0x13 => .ok (.validate (sequence16 r))
  | 0x20 => .ok .rxFrame
  | 0x28 => .ok .startFrame
  | 0x29 => .ok (.sendByte (byteAt r 0))
  | 0x2A => .ok (.sendFrame (sequence8 r))
  | 0x30 => .ok .arbWaiting
  | 0x31 => .ok .arbListening
  | 0x32 => .ok .arbStarting
  | 0x33 => .ok .arbSending
  | 0x34 => .ok .arbReading
  | 0x40 => decodeInit r
  | 0x41 => decodeSubmit r
  | 0x42 => .ok .retrieve
  | 0x43 => .ok .readStatus
  | 0x50 => .ok .diagElec
  | 0x51 => .ok .diagTiming
  | 0x52 => .ok .diagYield
  | 0x53 => .ok (.inferGrade (countOf (byteAt r 0) (byteAt r 1) (byteAt r 2) (byteAt r 3)))
  | 0x80 => decodeFrameGeneric r
  | 0x81 => .ok .symSync
  | 0x82 => .ok .symBitsync
  | 0x83 => .ok .symBit0
  | 0x84 => .ok .symBit1
  | 0x85 => .ok (.frameOnLine (sequence8 r))
  | _ => .error (.reservedId id)

/-- The operation a record of bytes holds, total: a record that holds none is rejected by name. Bytes after the
operation's own are not looked at. -/
def decode : List Byte → Except DecodeError Instr
  | [] => .error .emptyRecord
  | id :: r => decodeId id r

/-- The id of an operation (30_encoding.md R120), or the tag of a format row (entry 6). -/
def opId : Instr → Byte
  | .sampleBit => 0x01
  | .sampleByte => 0x02
  | .driveBit _ => 0x03
  | .decodeHeader _ => 0x10
  | .serialize _ => 0x11
  | .deserialize _ => 0x12
  | .validate _ => 0x13
  | .rxFrame => 0x20
  | .startFrame => 0x28
  | .sendByte _ => 0x29
  | .sendFrame _ => 0x2A
  | .arbWaiting => 0x30
  | .arbListening => 0x31
  | .arbStarting => 0x32
  | .arbSending => 0x33
  | .arbReading => 0x34
  | .init _ => 0x40
  | .submit _ _ => 0x41
  | .retrieve => 0x42
  | .readStatus => 0x43
  | .diagElec => 0x50
  | .diagTiming => 0x51
  | .diagYield => 0x52
  | .inferGrade _ => 0x53
  | .frameStructured _ _ _ _ _ _ => 0x00
  | .frameGeneric _ _ => 0x80
  | .symSync => 0x81
  | .symBitsync => 0x82
  | .symBit0 => 0x83
  | .symBit1 => 0x84
  | .frameOnLine _ => 0x85

/-- A two-byte length field, low byte first, and the bytes. -/
def put16 (b : List Byte) : List Byte :=
  BitVec.ofNat 8 (b.length % 256) :: BitVec.ofNat 8 (b.length / 256) :: b

/-- A one-byte length field and the bytes. -/
def put8 (b : List Byte) : List Byte := BitVec.ofNat 8 b.length :: b

/-- A 32-bit count as four bytes, low byte first. -/
def putCount (n : Count) : List Byte :=
  [n.extractLsb' 0 8, n.extractLsb' 8 8, n.extractLsb' 16 8, n.extractLsb' 24 8]

/-- The six payload bytes in order. -/
def putPayload (d : Payload) : List Byte := [d.d0, d.d1, d.d2, d.d3, d.d4, d.d5]

/-- One bit in a byte. -/
def putBit (b : Bool) : Byte := if b then 1 else 0

/-- The record of a Frame operand. -/
def putFrame : Frame → List Byte
  | .structured f => [0, f.soh, f.src, f.dst, f.opc] ++ putPayload f.data ++ [f.pad, f.chk]
  | .generic len body => [1, len] ++ put16 body

/-- The mode byte of INIT. -/
def putMode (m : BusMode) : Byte := (0 : BitVec 4) ++ m.grade ++ BitVec.ofBool m.rdpol ++ BitVec.ofBool m.ctrl

/-- The record of a wait operand. -/
def putWait : Wait → List Byte
  | .cycles n => 0 :: putCount n
  | .forever => 1 :: putCount 0

/-- The operand bytes of an operation. -/
def operandBytes : Instr → List Byte
  | .driveBit v => [putBit v]
  | .decodeHeader t => [t]
  | .serialize f => putFrame f
  | .deserialize b => put16 b
  | .validate b => put16 b
  | .sendByte b => [b]
  | .sendFrame b => put8 b
  | .init m => [m.addr, putMode m]
  | .submit b w => putWait w ++ put16 b
  | .inferGrade w => putCount w
  | .frameStructured src dst opc data pad chk => [src, dst, opc] ++ putPayload data ++ [pad, chk]
  | .frameGeneric len body => len :: body
  | .frameOnLine b => put8 b
  | .sampleBit => []
  | .sampleByte => []
  | .rxFrame => []
  | .startFrame => []
  | .arbWaiting => []
  | .arbListening => []
  | .arbStarting => []
  | .arbSending => []
  | .arbReading => []
  | .retrieve => []
  | .readStatus => []
  | .diagElec => []
  | .diagTiming => []
  | .diagYield => []
  | .symSync => []
  | .symBitsync => []
  | .symBit0 => []
  | .symBit1 => []

/-- The record of an operation: its id and its operand bytes. -/
def encode (i : Instr) : List Byte := opId i :: operandBytes i

/-- The column "issued by" of 30_encoding.md R120: HOST, or not through the host interface. -/
def issuerOf : Instr → Issuer
  | .validate _ => .host
  | .init _ => .host
  | .submit _ _ => .host
  | .retrieve => .host
  | .readStatus => .host
  | .diagElec => .host
  | .diagTiming => .host
  | .diagYield => .host
  | .sampleBit => .block
  | .sampleByte => .block
  | .driveBit _ => .block
  | .decodeHeader _ => .block
  | .serialize _ => .block
  | .deserialize _ => .block
  | .rxFrame => .block
  | .startFrame => .block
  | .sendByte _ => .block
  | .sendFrame _ => .block
  | .arbWaiting => .block
  | .arbListening => .block
  | .arbStarting => .block
  | .arbSending => .block
  | .arbReading => .block
  | .inferGrade _ => .block
  | .frameStructured _ _ _ _ _ _ => .block
  | .frameGeneric _ _ => .block
  | .symSync => .block
  | .symBitsync => .block
  | .symBit0 => .block
  | .symBit1 => .block
  | .frameOnLine _ => .block

/-- How an operation takes its time: a HOST call in its cycle, one cycle of ARB, or a run of its own. -/
def kindOf (i : Instr) : Kind :=
  match i with
  | .arbWaiting | .arbListening | .arbStarting | .arbSending | .arbReading => .arb
  | _ => if issuerOf i = .host then .call else .run

/-- The class of a HOST operation (45_host_ops.md R263). -/
def classOf : Instr → CallClass
  | .submit _ _ => .submit
  | .retrieve => .retrieve
  | _ => .control

/-- The low `n` bytes of a number, least significant first, as spec/opcode_table.json numbers bits. -/
def bytesOfWord : Nat → Nat → List Byte
  | 0, _ => []
  | n + 1, w => BitVec.ofNat 8 (w % 256) :: bytesOfWord n (w / 256)

/-- The operation the decoder reads from an operation whose table bits are `w`; bits above `nbits` are zero,
which is how the decoder reads bytes that are not presented. -/
def decodeTableWord (nbits w : Nat) : Option Instr :=
  match decode (bytesOfWord ((nbits + 7) / 8) w) with
  | .ok i => some i
  | .error _ => none

end Sys2Proof
end

