-- ==== Sys2Proof/Machine/State.lean ====
section
/-! DEFINITION. The state of the machine as plain data: every register, buffer, queue and flag of 10_state.md,
the HOST operations outstanding (45_host_ops.md R256, R259), and the model's own fields: the parameters, the
inputs of the coming cycles, HOST's coming calls, the cycle number and the histories. -/

namespace Sys2Proof.Machine

/-- Why the machine stops. Both reasons arise only in states that no run from reset reaches; the hardware's
own failures are events and statuses, which are next states (60_exceptions.md R310). -/
inductive Fault where
  /-- Raised by RX, ARB or DIAG when it would access a byte of a 255-byte buffer outside indices 0 to 254
  (20_memory.md R71). Safe: the byte does not exist and the spec gives the access no effect. -/
  | bufferIndex
  /-- Raised by ARB_READING when it would pop an empty RING (20_memory.md R76: "Q must be non-empty").
  Safe: the spec gives such a pop no effect. -/
  | popEmpty
deriving DecidableEq, Repr

/-- Why an operation is not run. -/
inductive Refusal where
  /-- Raised by `exec` for an operation that has no meaning yet. Safe. -/
  | notModelled (mnemonic : String)
  /-- Raised by SUBMIT, RETRIEVE and the step when HOST issues a second operation of a class while one is
  outstanding, which 45_host_ops.md R263 excludes and 93_implementation_defined.md U11 puts outside the spec.
  Safe: the spec gives such a call no effect. That it is raised too when a call of the block delays two calls of a class into
  one cycle is the model's (DESIGN CHOICE, entry 10). -/
  | secondOfClass
deriving DecidableEq, Repr

/-- A storage buffer (RX_BUF, TX_FRAME, RD_FRAME, DIAG_BUF): index and byte pairs, indices strictly rising
and no entry equal to what an unlisted index reads as (entry 8). -/
abbrev Memory := List Host.Cell

/-- The status codes of HOST operations (30_encoding.md R122). -/
inductive Status where
  | ok
  | eAddrZero
  | ePin
  | eBusy
  | eNotInit
  | eQueueFull
  | none
  | eLength
  | eBadOp
  | eDiagTmo
deriving DecidableEq, Repr

/-- The three probes of the diagnostic engine (46_diagnostic.md). -/
inductive Probe where
  | elec
  | timing
  | yield
deriving DecidableEq, Repr

/-- The events, with the information the raising rule names (60_exceptions.md R310, R316). -/
inductive Event where
  | rxPushed (b : List Byte)
  | rxSyncLow
  | rxHighTmo
  | rxShortHigh
  | rxBsLow
  | rxBitFault
  | ringFull (b : List Byte)
  | listenBusy
  | backoffAbort
  | txStart (s0 : Nat)
  | txDone
  | collisionHigh (byte bit : Nat)
  | collisionGuard (byte bit : Nat)
  | inqPushed
  | inqFull
  | invariant
  | initOk
  | initFail (st : Status)
  | submitOk
  | submitFull
  | retrieveOk
  | retrieveNone
  | diagDone (p : Probe) (st : Status)
deriving DecidableEq, Repr

/-- Why a bit never resolved (40_bit_codec.md R141). -/
inductive BitFault where
  | lowStuck
  | highStuck
deriving DecidableEq, Repr

/-- The result of SAMPLE_BIT: a bit or a fault, never a bit in place of a fault (40_bit_codec.md R141, R144). -/
inductive BitRead where
  | bit (v : Bool)
  | fault (f : BitFault)
deriving DecidableEq, Repr

/-- The result of SAMPLE_BYTE (40_bit_codec.md R146). -/
inductive ByteRead where
  | byte (b : Byte)
  | fault (f : BitFault)
deriving DecidableEq, Repr

/-- The outcome of a reception (42_reception.md R181). -/
inductive RxOutcome where
  | pushed (b : List Byte)
  | dropped (b : List Byte)
  | aborted (e : Event)
deriving DecidableEq, Repr

/-- Which of DRIVE_BIT's two checks found the line low (40_bit_codec.md R148, R149). -/
inductive Check where
  | afterHigh
  | afterGuard
deriving DecidableEq, Repr

/-- The host-visible registers, as READ_STATUS returns them (45_host_ops.md R262). -/
structure StatusView where
  cfgValid : Bool
  modeAddr : Byte
  modeCtrl : Bool
  modeRdpol : Bool
  modeGrade : BitVec 2
  tpDelta : Count
  tpTol : Count
  tpWmin : Count
  tpWmax : Count
  tpSkew : Count
  statInvariant : Bool
  dsSync : Count
  dsBsh : Count
  dsBsl : Count
  dsBit0 : Count
  dsBit1 : Count
  diagGrade : BitVec 3
  diagViol : Mask
  deFall : Count
  deRise : Count
  dePeriod : Count
  deStatus : Bool
  diagYield : BitVec 2
deriving DecidableEq, Repr

/-- The results of operations (the results column of 30_encoding.md R120). -/
inductive Result where
  | sampledBit (r : BitRead) (h : Nat) (tEnd : Nat)
  | sampledByte (r : ByteRead) (tEnd : Nat)
  | driven (collision : Bool) (tNext : Nat)
  | frameLen (n : Nat)
  | serialized (b : List Byte)
  | deserialized (f : Option Frame)
  | violations (st : Status) (m : Option Mask)
  | received (o : RxOutcome) (tEnd : Nat)
  | notTriggered
  | started (s1 : Nat)
  | status (st : Status)
  | retrieved (st : Status) (b : Option (List Byte))
  | registers (v : StatusView)
  | grade (g : BitVec 3)
  | frameBytes (b : List Byte) (len : Nat)
  | onLine (tEnd : Nat)
deriving DecidableEq, Repr

/-- An entry of the event history: an event and the cycle it was raised in (60_exceptions.md R310). -/
structure Raised where
  cycle : Nat
  event : Event
deriving DecidableEq, Repr

/-- An entry of the result history: the cycle, the operation's id and its result (10_state.md R49). -/
structure Reply where
  cycle : Nat
  op : Byte
  result : Result
deriving DecidableEq, Repr

/-- What ENV does to the line in a cycle (00_scope.md R13). `free`: no other device pulls low. `pulls`: some
device does. `lags`: the line reads high whatever this block drives, which no ideal line does
(93_implementation_defined.md U12) and which lets ENV carry a fall delay (46_diagnostic.md R272; entry 4). -/
inductive LineEnv where
  | free
  | pulls
  | lags
deriving DecidableEq, Repr

/-- The inputs of one cycle: the ports `rst` and `pin_ok` and ENV's part of `line_in` (10_state.md R22). -/
structure CycleIn where
  rst : Bool
  pinOk : Bool
  line : LineEnv
deriving DecidableEq, Repr

/-- A coming call: the cycle it is issued in, who issues it, and its record (entries 5 and 7). -/
structure Call where
  due : Nat
  issuer : Issuer
  record : List Byte
deriving DecidableEq, Repr

/-- A SUBMIT that waits for room in OUTQ: its byte sequence and the wait left (45_host_ops.md R256). -/
structure Waiting where
  frame : List Byte
  left : Wait
deriving DecidableEq, Repr

/-- The state. The first block of fields is the spec's (INVENTORY.md names rule and width of each); the fields
from `params` on are the model's. -/
structure State where
  -- configuration (10_state.md R23 to R27)
  cfgValid : Bool
  modeAddr : Byte
  modeCtrl : Bool
  modeRdpol : Bool
  modeGrade : BitVec 2
  tpDelta : Count
  tpTol : Count
  tpWmin : Count
  tpWmax : Count
  tpSkew : Count
  -- line interface (R28, R30)
  drvLow : Bool
  linePrev : Bool
  -- receiver (R32 to R35)
  rxActive : Bool
  rxPhase : BitVec 3
  rxCnt : Count
  rxShift : Byte
  rxBitidx : BitVec 3
  rxByteidx : Byte
  rxLen : Byte
  rxBuf : Memory
  notify : Bool
  -- storage between agents (R36, R37), oldest element first
  ring : List (List Byte)
  inq : List (List Byte)
  outq : List (List Byte)
  -- arbitration and transmitter (R39 to R42)
  arbState : BitVec 3
  arbSub : BitVec 2
  arbCnt : Count
  txHeld : Bool
  txFrame : Memory
  txLen : Byte
  txByteidx : Byte
  txBitidx : BitVec 3
  rdFrame : Memory
  rdLen : Byte
  -- status (R43)
  statInvariant : Bool
  -- diagnostic engine (R45 to R48)
  diagMode : Bool
  dsSync : Count
  dsBsh : Count
  dsBsl : Count
  dsBit0 : Count
  dsBit1 : Count
  diagGrade : BitVec 3
  diagViol : Mask
  deFall : Count
  deRise : Count
  dePeriod : Count
  deStatus : Bool
  diagYield : BitVec 2
  diagPhase : BitVec 4
  diagCnt : Count
  diagTmr : Count
  diagBuf : Memory
  diagIdx : Byte
  diagBit : BitVec 3
  -- HOST operations outstanding (45_host_ops.md R256, R259, R263)
  subWait : Option Waiting
  retWait : Bool
  -- the model's own registers of a running probe: which it is, B, V and f of 46_diagnostic.md (entry 15)
  diagOp : Option Probe
  diagShift : Byte
  diagAcc : Mask
  diagFall : Count
  -- HOSTLOCK of this cycle (44_arbitration.md R216; entry 22)
  hostLock : Bool
  -- the model's own: parameters, time, inputs, histories (newest first)
  params : Config.Params
  cycle : Nat
  inputs : List CycleIn
  calls : List Call
  drvTrace : List Bool
  events : List Raised
  replies : List Reply
deriving DecidableEq, Repr

/-- The machine right after reset with a given parameter set (70_reset_and_hazards.md R341, 10_state.md R50):
nothing has happened, no input and no call is listed. Buffer contents are the model's choice (entry 8). -/
def State.resetWith (p : Config.Params) : State where
  cfgValid := false
  modeAddr := 0
  modeCtrl := false
  modeRdpol := false
  modeGrade := 0
  tpDelta := 0
  tpTol := 0
  tpWmin := 0
  tpWmax := 0
  tpSkew := 0
  drvLow := false
  linePrev := true
  rxActive := false
  rxPhase := 0
  rxCnt := 0
  rxShift := 0
  rxBitidx := 0
  rxByteidx := 0
  rxLen := 0
  rxBuf := []
  notify := false
  ring := []
  inq := []
  outq := []
  arbState := 0
  arbSub := 0
  arbCnt := 0
  txHeld := false
  txFrame := []
  txLen := 0
  txByteidx := 0
  txBitidx := 0
  rdFrame := []
  rdLen := 0
  statInvariant := false
  diagMode := false
  dsSync := 0
  dsBsh := 0
  dsBsl := 0
  dsBit0 := 0
  dsBit1 := 0
  diagGrade := 0
  diagViol := 0
  deFall := 0
  deRise := 0
  dePeriod := 0
  deStatus := false
  diagYield := 0
  diagPhase := 0
  diagCnt := 0
  diagTmr := 0
  diagBuf := []
  diagIdx := 0
  diagBit := 0
  subWait := none
  retWait := false
  diagOp := none
  diagShift := 0
  diagAcc := 0
  diagFall := 0
  hostLock := false
  params := p
  cycle := 0
  inputs := []
  calls := []
  drvTrace := []
  events := []
  replies := []

/-- The machine right after reset; its parameter set is the opaque `Config.params` (entry 2). -/
def State.reset : State := State.resetWith Config.params

end Sys2Proof.Machine
end

