-- ==== Sys2Proof/Machine/Operands.lean ====
section
/-! DEFINITION. The quantities operations work with: the timing profile the registers hold and the durations
derived from it (00_scope.md R9), the bits and lengths of bytes and byte sequences (30_encoding.md R109, R110),
and the codes of statuses and events (R122, 60_exceptions.md R316). -/

namespace Sys2Proof.Machine

/-- The latched timing profile as numbers (10_state.md R27): every rule that writes DELTA, TOL, WMIN or WMAX
without an index means these (00_scope.md R8). -/
structure Timing where
  delta : Nat
  tol : Nat
  wmin : Nat
  wmax : Nat
deriving DecidableEq, Repr

/-- The profile of the active grade, from its registers (00_scope.md R8). -/
def State.timing (s : State) : Timing where
  delta := s.tpDelta.toNat
  tol := s.tpTol.toNat
  wmin := s.tpWmin.toNat
  wmax := s.tpWmax.toNat

/-- LOW_TMO = SYNC_LOW_MAX = 10 * DELTA (00_scope.md R9). -/
def Timing.lowTmo (p : Timing) : Nat := Config.lowTmoUnits * p.delta

/-- HIGH_TMO = 25 * DELTA (00_scope.md R9). -/
def Timing.highTmo (p : Timing) : Nat := Config.highTmoUnits * p.delta

/-- SYNC_HIGH_MIN = 6 * DELTA (00_scope.md R9). -/
def Timing.syncHighMin (p : Timing) : Nat := Config.syncHighUnits * p.delta

/-- BS_HIGH_CYC = BS_LOW_CYC = 8 * DELTA (00_scope.md R9). -/
def Timing.bitSync (p : Timing) : Nat := Config.bitSyncUnits * p.delta

/-- The high phase of a bit cell: one unit for 0, two units for 1 (30_encoding.md R104). -/
def Timing.cellHigh (p : Timing) (v : Bool) : Nat := if v then 2 * p.delta else p.delta

/-- The longest conformant bit, 2 * DELTA + TOL (46_diagnostic.md R284). -/
def Timing.longestBit (p : Timing) : Nat := 2 * p.delta + p.tol

/-- The bit a complete high phase of `h` cycles stands for: 0 up to WMAX, else 1 (40_bit_codec.md R142, R143). -/
def Timing.classify (p : Timing) (h : Nat) : Bool := decide (p.wmax < h)

/-- A run within eight units, each inside the profile's tolerance (46_diagnostic.md R283). -/
def Timing.bitSyncConformant (p : Timing) (n : Nat) : Bool :=
  decide (Config.bitSyncUnits * p.wmin ≤ n) && decide (n ≤ Config.bitSyncUnits * p.wmax)

/-- SYNC_LOW_CYC by role: floor(SYNC_LOW_HU[role] * DELTA / 2) (00_scope.md R9, 43_transmission.md R202). -/
def State.syncLowCyc (s : State) : Nat :=
  (if s.modeCtrl then s.params.syncLowHuCtrl else s.params.syncLowHuDev) * s.timing.delta / 2

/-- BACKOFF(a) = floor((a + 6) * DELTA / 4), the product formed first (44_arbitration.md R224). -/
def backoff (addr : Byte) (delta : Nat) : Nat := (addr.toNat + 6) * delta / 4

/-- The ceiling of a probe, in cycles from its first cycle (46_diagnostic.md R273). -/
def State.ceiling (s : State) : Probe → Nat
  | .elec => s.params.tmoElec
  | .timing => s.params.tmoTiming
  | .yield => s.params.tmoYield

/-- A number as a 32-bit count. Every count the rules form is below 2^32 under 00_scope.md R7
(40_bit_codec.md R153). -/
def count (n : Nat) : Count := BitVec.ofNat 32 n

/-- DECODE_HEADER, FrameLen: the frame length a tag byte gives (41_frame_format.md R160). -/
def frameLen (t : Byte) : Nat := if t = 0 then Config.l3Len else t.toNat

/-- A byte sequence of 1 to 255 bytes, as many as its first byte says (45_host_ops.md R254). -/
def fitsTag : List Byte → Bool
  | [] => false
  | t :: r => decide (r.length + 1 ≤ Config.maxFrame) && decide (r.length + 1 = frameLen t)

/-- `B[i] <- v`: the byte with one bit written (40_bit_codec.md R146). -/
def setBit (b : Byte) (i : Nat) (v : Bool) : Byte :=
  if v then b ||| ((1 : Byte) <<< i) else b &&& ~~~((1 : Byte) <<< i)

/-- The code of a status (30_encoding.md R122). -/
def Status.code : Status → BitVec 4
  | .ok => 0
  | .eAddrZero => 1
  | .ePin => 2
  | .eBusy => 3
  | .eNotInit => 4
  | .eQueueFull => 5
  | .none => 6
  | .eLength => 7
  | .eBadOp => 8
  | .eDiagTmo => 9

/-- The number of an event (60_exceptions.md R316). -/
def Event.number : Event → Nat
  | .rxPushed _ => 1
  | .rxSyncLow => 2
  | .rxHighTmo => 3
  | .rxShortHigh => 4
  | .rxBsLow => 5
  | .rxBitFault => 6
  | .ringFull _ => 7
  | .listenBusy => 8
  | .backoffAbort => 9
  | .txStart _ => 10
  | .txDone => 11
  | .collisionHigh _ _ => 12
  | .collisionGuard _ _ => 13
  | .inqPushed => 14
  | .inqFull => 15
  | .invariant => 16
  | .initOk => 17
  | .initFail _ => 18
  | .submitOk => 19
  | .submitFull => 20
  | .retrieveOk => 21
  | .retrieveNone => 22
  | .diagDone _ _ => 23

/-- The operation id of a probe (30_encoding.md R120). -/
def Probe.opId : Probe → Byte
  | .elec => 0x50
  | .timing => 0x51
  | .yield => 0x52

/-- The codes of ARB_STATE (10_state.md R39). -/
abbrev arbWaitingCode : BitVec 3 := 0
abbrev arbListeningCode : BitVec 3 := 1
abbrev arbStartingCode : BitVec 3 := 2
abbrev arbSendingCode : BitVec 3 := 3
abbrev arbReadingCode : BitVec 3 := 4

end Sys2Proof.Machine
end

