-- ==== Sys2Proof/Machine/Flags.lean ====
section
/-! DEFINITION. The flags and derived signals: the level of the line (00_scope.md R13), the falling edge and the
arming of the receiver (10_state.md R30, R31), the freeze of ARB (44_arbitration.md R216), BUSY (45_host_ops.md
R253), and the bits of the violation mask (30_encoding.md R126). -/

namespace Sys2Proof.Machine

/-- The level of the line when this block drives `drv` (00_scope.md R13): wired-AND, high unless somebody pulls
low; `lags` is the one non-ideal value ENV may give. -/
def LineEnv.level (e : LineEnv) (drv : Bool) : Bool :=
  match e with
  | .free => !drv
  | .pulls => false
  | .lags => true

/-- The inputs of a cycle that no input lists: no reset, `pin_ok` as the parameter says, the line free. -/
def State.idleIn (s : State) : CycleIn := ⟨false, s.params.pinOk, .free⟩

/-- The inputs of cycle `t`, for `t` from the present cycle on. -/
def State.inputAt (s : State) (t : Nat) : CycleIn := (s.inputs[t - s.cycle]?).getD s.idleIn

/-- The inputs of the present cycle. -/
def State.inputNow (s : State) : CycleIn := s.inputs.headD s.idleIn

/-- `line_in` of the present cycle (00_scope.md R13). -/
def State.line (s : State) : Bool := s.inputNow.line.level s.drvLow

/-- `line_in(t)` for the cycles from the present one on, DRV_LOW keeping its value: the trace an operation that
does not drive reads (00_scope.md R17). -/
def State.lineAt (s : State) (t : Nat) : Bool := (s.inputAt t).line.level s.drvLow

/-- `line_in(t)` in a cycle in which this block releases the line: what DRIVE_BIT's two checks read
(40_bit_codec.md R148, R149). -/
def State.releasedAt (s : State) (t : Nat) : Bool := (s.inputAt t).line.level false

/-- FALL: the falling edge of this cycle (10_state.md R30). -/
def State.fall (s : State) : Bool := s.linePrev && !s.line

/-- RX_ARM (10_state.md R31). -/
def State.rxArm (s : State) : Bool :=
  s.cfgValid && !s.rxActive && !s.diagMode && s.arbState != arbStartingCode && s.arbState != arbSendingCode

/-- TRIG: the receiver starts in this cycle (10_state.md R31, 42_reception.md R180). -/
def State.trig (s : State) : Bool := s.rxArm && s.fall

/-- The freeze of ARB (44_arbitration.md R216); `lock` is HOSTLOCK of the cycle. -/
def State.frozen (s : State) (lock : Bool) : Bool := s.rxActive || s.trig || s.diagMode || lock

/-- ARB takes a step in this cycle (44_arbitration.md R215). -/
def State.arbRuns (s : State) (lock : Bool) : Bool := s.cfgValid && !s.frozen lock

/-- A SUBMIT or RETRIEVE is waiting (45_host_ops.md R253, R256, R259). -/
def State.hostWaits (s : State) : Bool := s.subWait.isSome || s.retWait

/-- ARB is in one of the states in which the bus is active (45_host_ops.md R253); 5 to 7 are not. -/
def State.arbActive (s : State) : Bool :=
  s.arbState == arbListeningCode || s.arbState == arbStartingCode || s.arbState == arbSendingCode
  || s.arbState == arbReadingCode

/-- BUSY: INIT is refused (45_host_ops.md R253). DESIGN CHOICE (entry 9): a SUBMIT or RETRIEVE that waits at the start of
the cycle counts as waiting, whether or not it returns in this cycle. -/
def State.busy (s : State) : Bool :=
  s.cfgValid && (s.arbActive || s.rxActive || s.trig || s.diagMode || s.hostWaits)

/-- A probe is refused with E_BUSY (46_diagnostic.md R270). -/
def State.probeBusy (s : State) : Bool :=
  s.arbState != arbWaitingCode || s.rxActive || s.trig || s.diagMode

/-- The bits of the violation mask (30_encoding.md R126). -/
abbrev vSyncAbsent : Mask := 0x0001
abbrev vSyncLong : Mask := 0x0002
abbrev vSyncShort : Mask := 0x0004
abbrev vBshRange : Mask := 0x0008
abbrev vBslRange : Mask := 0x0010
abbrev vTrailing : Mask := 0x0020
abbrev vL3Soh : Mask := 0x0040
abbrev vL3Src : Mask := 0x0080
abbrev vL3Dst : Mask := 0x0100
abbrev vL3Pad : Mask := 0x0200
abbrev vL3Chk : Mask := 0x0400
abbrev vGenUnterm : Mask := 0x0800
abbrev vBitFault : Mask := 0x1000
abbrev vProbeTmo : Mask := 0x2000

/-- A violation when a condition holds, and the empty set otherwise. -/
def viol (c : Bool) (m : Mask) : Mask := if c then m else 0

end Sys2Proof.Machine
end

