-- ==== Sys2Proof/Machine/Ops.lean ====
section
/-! DEFINITION. The named operations the agents share: the 255-byte buffers (20_memory.md R71), the FIFOs (R76,
R77), the event and result histories (60_exceptions.md R310), the passing of a clock cycle (00_scope.md R11,
10_state.md R30), and the block's one interrupt-like entry with its return: taking the falling edge
(60_exceptions.md R318) and the end of a reception (R319). -/

namespace Sys2Proof.Machine

/-! ### Buffers -/

/-- What an index that no entry lists reads as (entry 8). -/
abbrev unwritten : Byte := 0

/-- The canonical form from a lower bound on: indices strictly rising, below 255, no entry equal to `unwritten`. -/
def Memory.wfFrom : Nat → Memory → Bool
  | _, [] => true
  | lo, c :: m =>
    decide (lo ≤ c.1) && decide (c.1 < Config.maxFrame) && decide (c.2 ≠ unwritten) && Memory.wfFrom (c.1 + 1) m

/-- The canonical form of a buffer: equal buffers are equal data. -/
def Memory.wf (m : Memory) : Bool := Memory.wfFrom 0 m

/-- Byte `i` of a buffer. -/
def Memory.read : Memory → Nat → Byte
  | [], _ => unwritten
  | c :: m, i => if c.1 = i then c.2 else Memory.read m i

/-- The entry of an index in front of a list, left out when it is what an unlisted index reads as. -/
def Memory.put (i : Nat) (b : Byte) (m : Memory) : Memory := if b = unwritten then m else (i, b) :: m

/-- Byte `i` of a buffer written, the canonical form kept. -/
def Memory.write : Memory → Nat → Byte → Memory
  | [], i, b => Memory.put i b []
  | c :: m, i, b =>
    if c.1 < i then c :: Memory.write m i b
    else if c.1 = i then Memory.put i b m
    else Memory.put i b (c :: m)

/-- Consecutive bytes written from an index on (44_arbitration.md R218: `TX_FRAME[0 .. len(f) - 1] <- f`). -/
def Memory.writeFrom : Memory → Nat → List Byte → Memory
  | m, _, [] => m
  | m, i, b :: r => Memory.writeFrom (Memory.write m i b) (i + 1) r

/-- The first `n` bytes of a buffer (`BUF[0 .. n - 1]`). -/
def Memory.take (m : Memory) (n : Nat) : List Byte := (List.range n).map (Memory.read m)

/-! ### FIFOs -/

/-- The bytes a RING's elements occupy (20_memory.md R76). -/
def ringUsed (q : List (List Byte)) : Nat := (q.map List.length).sum

/-- Room in RING for an element, judged on the contents at the start of the cycle (20_memory.md R76, R77). -/
def State.ringRoom (s : State) (x : List Byte) : Bool :=
  decide (ringUsed s.ring + x.length ≤ s.params.ringBytes)

/-- Room in INQ for one frame (20_memory.md R76). -/
def State.inqRoom (s : State) : Bool := decide (s.inq.length < s.params.inqDepth)

/-- Room in OUTQ for one frame (20_memory.md R76). -/
def State.outqRoom (s : State) : Bool := decide (s.outq.length < s.params.outqDepth)

/-! ### Histories -/

/-- `raise`: an event appended to the history in the present cycle (60_exceptions.md R310). -/
def State.raise (s : State) (e : Event) : State := { s with events := ⟨s.cycle, e⟩ :: s.events }

/-- A result returned in the present cycle. -/
def State.reply (s : State) (op : Byte) (r : Result) : State :=
  { s with replies := ⟨s.cycle, op, r⟩ :: s.replies }

/-! ### Time -/

/-- A clock cycle passes in which this block drives `d`: LINE_PREV takes the level of the line, "in every cycle,
whatever else the block is doing" (10_state.md R30); the inputs of the cycle are gone. -/
def State.passCycle (s : State) (d : Bool) : State :=
  { s with
    linePrev := s.inputNow.line.level d
    cycle := s.cycle + 1
    inputs := s.inputs.tail
    drvTrace := d :: s.drvTrace }

/-- The cycles of a waveform pass, one value of DRV_LOW a cycle (00_scope.md R17 `Drive`). -/
def State.passWave : State → List Bool → State
  | s, [] => s
  | s, d :: w => (s.passCycle d).passWave w

/-- `n` cycles pass, DRV_LOW keeping its value: an operation that only reads the line (40_bit_codec.md R141). -/
def State.passIdle (s : State) (n : Nat) : State := s.passWave (List.replicate n s.drvLow)

/-- A waveform is driven and the line is released after it. -/
def State.driveWave (s : State) (w : List Bool) : State := { s.passWave w with drvLow := false }

/-! ### The falling edge taken, and the return -/

/-- Entry: the receiver takes the falling edge (60_exceptions.md R318, 42_reception.md R180). Nothing is saved:
ARB's registers keep their values while it is frozen. That RX_CNT counts up from 1, the trigger cycle's low, is the model's
(DESIGN CHOICE, entry 32). -/
def State.takeEdge (s : State) : State :=
  { s with rxActive := true, rxPhase := 1, rxCnt := 1, rxByteidx := 0, rxBitidx := 0 }

/-- Return: the end of every reception, all in its last cycle (60_exceptions.md R319, 42_reception.md R191). -/
def State.endReception (s : State) (e : Event) : State :=
  { s with rxActive := false, rxPhase := 0, notify := true }.raise e

/-- A capture pushed to RING whole or not at all, and the end of the reception (42_reception.md R189);
room is judged on `s0`, the start of the cycle. -/
def State.endCapture (s0 s : State) (b : List Byte) : State :=
  if s0.ringRoom b then { s with ring := s.ring ++ [b] }.endReception (.rxPushed b)
  else s.endReception (.ringFull b)

/-! ### Construction -/

/-- The machine right after reset with a parameter set, refused when the set breaks a constraint of 00_scope.md R7 with
`g` as the grade that is to be active (93_implementation_defined.md U13; entry 20). -/
def State.build (p : Config.Params) (g : BitVec 2) : Option State :=
  if p.legalFor g then some (State.resetWith p) else none

/-! ### Unreachable values -/

/-- An agent finds its state register at an unreachable value (44_arbitration.md R237, 60_exceptions.md R315). -/
def State.flagInvariant (s : State) : State := { s with statInvariant := true }.raise .invariant

end Sys2Proof.Machine
end

