-- ==== Sys2Proof/Machine/BitCodec.lean ====
section
/-! DEFINITION. The Bit Codec (40_bit_codec.md): SAMPLE_BIT, SAMPLE_BYTE and DRIVE_BIT as exact functions of a
start cycle and the line trace, and their meanings. A run of the line is counted up to one more than its bound,
which decides it in the cycle the rule says. -/

namespace Sys2Proof.Machine

/-- The number of consecutive cycles from `t` at level `lvl`, counted up to `fuel` (LowRun and HighRun of
00_scope.md R16, bounded). -/
def runLen (tr : Nat → Bool) (lvl : Bool) : Nat → Nat → Nat
  | 0, _ => 0
  | f + 1, t => if tr t = lvl then runLen tr lvl f (t + 1) + 1 else 0

/-- The results of SAMPLE_BIT: the bit or fault, the high width, the end cycle (40_bit_codec.md R141). -/
structure BitSample where
  r : BitRead
  h : Nat
  tEnd : Nat
deriving DecidableEq, Repr

/-- SAMPLE_BIT on a trace (40_bit_codec.md R141). -/
def sampleBitAt (tr : Nat → Bool) (p : Timing) (t0 : Nat) : BitSample :=
  let n := runLen tr false (p.lowTmo + 1) t0
  if p.lowTmo < n then ⟨.fault .lowStuck, 0, t0 + p.lowTmo⟩
  else
    let t1 := t0 + n
    let h := runLen tr true (p.highTmo + 1) t1
    if p.highTmo < h then ⟨.fault .highStuck, p.highTmo, t1 + p.highTmo⟩
    else ⟨.bit (p.classify h), h, t1 + h⟩

/-- The results of SAMPLE_BYTE (40_bit_codec.md R146). -/
structure ByteSample where
  r : ByteRead
  tEnd : Nat
deriving DecidableEq, Repr

/-- The last `k` bits of a byte sampled from cycle `t`, bit `k - 1` first; the first fault ends it
(40_bit_codec.md R146). -/
def sampleBitsAt (tr : Nat → Bool) (p : Timing) : Nat → Nat → Byte → ByteSample
  | 0, t, b => ⟨.byte b, t⟩
  | k + 1, t, b =>
    let o := sampleBitAt tr p t
    match o.r with
    | .bit v => sampleBitsAt tr p k o.tEnd (setBit b k v)
    | .fault f => ⟨.fault f, o.tEnd⟩

/-- SAMPLE_BYTE on a trace: eight SAMPLE_BIT, most significant bit first (40_bit_codec.md R146). -/
def sampleByteAt (tr : Nat → Bool) (p : Timing) (t0 : Nat) : ByteSample := sampleBitsAt tr p 8 t0 0

/-- The results of DRIVE_BIT, with the check that found the line low and the values DRV_LOW takes in
`[t0, tNext)` (40_bit_codec.md R147). -/
structure BitDrive where
  hit : Option Check
  tNext : Nat
  wave : List Bool
deriving DecidableEq, Repr

/-- A bit cell as the driver makes it: released for the high phase, pulled low for the guard
(30_encoding.md R104). -/
def cellWave (p : Timing) (v : Bool) : List Bool :=
  List.replicate (p.cellHigh v) false ++ List.replicate Config.guardCyc true

/-- DRIVE_BIT on the trace of the released line (40_bit_codec.md R147): check 1 in the last cycle of the high
phase, check 2 in the first cycle after the guard. DESIGN CHOICE (entry 29): with H = 0 (DELTA = 0, outside R147's
precondition) check 1 is made in the cycle before the cell and reads the line as others leave it, also where that cycle is
this block's own guard. -/
def driveBitAt (tr : Nat → Bool) (p : Timing) (v : Bool) (t0 : Nat) : BitDrive :=
  let h := p.cellHigh v
  if tr (t0 + h - 1) = false then ⟨some .afterHigh, t0 + h, List.replicate h false⟩
  else
    let t := t0 + h + Config.guardCyc
    ⟨if tr t = false then some .afterGuard else none, t, cellWave p v⟩

/-- SAMPLE_BIT from the present cycle to its end (40_bit_codec.md R141). It writes no register; the model has no
caller whose counter it could be (entry 26). -/
def execSampleBit (s : State) : Host.Outcome State Fault Refusal :=
  let o := sampleBitAt s.lineAt s.timing s.cycle
  .next ((s.passIdle (o.tEnd - s.cycle)).reply 0x01 (.sampledBit o.r o.h o.tEnd))

/-- SAMPLE_BYTE from the present cycle to its end (40_bit_codec.md R146). It writes no counter (entry 26). -/
def execSampleByte (s : State) : Host.Outcome State Fault Refusal :=
  let o := sampleByteAt s.lineAt s.timing s.cycle
  .next ((s.passIdle (o.tEnd - s.cycle)).reply 0x02 (.sampledByte o.r o.tEnd))

/-- DRIVE_BIT from the present cycle to its end: DRV_LOW takes the cell's values and is 0 at the end; no event is
raised, that is its caller's (40_bit_codec.md R147, R150). DESIGN CHOICE (entry 29): R147's precondition, that the caller
owns the line, is not asked, and with H = 0 (DELTA = 0, before INIT) the cycle of check 1 is read as the present one. -/
def execDriveBit (v : Bool) (s : State) : Host.Outcome State Fault Refusal :=
  let o := driveBitAt s.releasedAt s.timing v s.cycle
  .next ((s.driveWave o.wave).reply 0x03 (.driven o.hit.isSome o.tNext))

end Sys2Proof.Machine
end

