-- ==== Sys2Proof/Machine/Transmission.lean ====
section
/-! DEFINITION. The Transmission Path (43_transmission.md): START_FRAME, SEND_BYTE and SEND_FRAME as functions of
the start cycle and the trace of the released line, and their meanings. -/

namespace Sys2Proof.Machine

/-- SYNC's low phase as driven (30_encoding.md R102). -/
def syncWave (syncLow : Nat) : List Bool := List.replicate syncLow true

/-- Bit-sync as driven: eight units released, eight units low (30_encoding.md R103). -/
def bitSyncWave (p : Timing) : List Bool := List.replicate p.bitSync false ++ List.replicate p.bitSync true

/-- START_FRAME's values of DRV_LOW: SYNC low, bit-sync high, bit-sync low (43_transmission.md R200). -/
def startWave (p : Timing) (syncLow : Nat) : List Bool := syncWave syncLow ++ bitSyncWave p

/-- The results of SEND_BYTE: the check that failed and the bit it failed in (43_transmission.md R203). -/
structure ByteDrive where
  hit : Option (Check × Nat)
  tNext : Nat
  wave : List Bool
deriving DecidableEq, Repr

/-- The last `k` bits of a byte driven from cycle `t`, bit `k - 1` first, up to the first collision
(43_transmission.md R203). -/
def sendBitsAt (tr : Nat → Bool) (p : Timing) (b : Byte) : Nat → Nat → ByteDrive
  | 0, t => ⟨none, t, []⟩
  | k + 1, t =>
    let d := driveBitAt tr p (b.getLsbD k) t
    match d.hit with
    | some c => ⟨some (c, k), d.tNext, d.wave⟩
    | none =>
      let r := sendBitsAt tr p b k d.tNext
      ⟨r.hit, r.tNext, d.wave ++ r.wave⟩

/-- SEND_BYTE on a trace: bit 7 first (43_transmission.md R203). -/
def sendByteAt (tr : Nat → Bool) (p : Timing) (b : Byte) (t0 : Nat) : ByteDrive := sendBitsAt tr p b 8 t0

/-- The results of SEND_FRAME: the failing check with its byte and bit index (43_transmission.md R204, R205). -/
structure FrameDrive where
  hit : Option (Check × Nat × Nat)
  tEnd : Nat
  wave : List Bool
deriving DecidableEq, Repr

/-- The bytes of a frame from index `j` on, driven from cycle `t`, up to the first collision
(43_transmission.md R204). -/
def sendBytesAt (tr : Nat → Bool) (p : Timing) : List Byte → Nat → Nat → FrameDrive
  | [], _, t => ⟨none, t, []⟩
  | b :: r, j, t =>
    let d := sendByteAt tr p b t
    match d.hit with
    | some (c, i) => ⟨some (c, j, i), d.tNext, d.wave⟩
    | none =>
      let q := sendBytesAt tr p r (j + 1) d.tNext
      ⟨q.hit, q.tEnd, d.wave ++ q.wave⟩

/-- SEND_FRAME on a trace (43_transmission.md R204). -/
def sendFrameAt (tr : Nat → Bool) (p : Timing) (b : List Byte) (s1 : Nat) : FrameDrive := sendBytesAt tr p b 0 s1

/-- The event of a failing check (43_transmission.md R205). -/
def collisionEvent : Check → Nat → Nat → Event
  | .afterHigh, j, i => .collisionHigh j i
  | .afterGuard, j, i => .collisionGuard j i

/-- The cycle a failing check samples, from the end cycle of its DRIVE_BIT: check 1 the cycle before, check 2 that
cycle (60_exceptions.md R316, rows 12 and 13). -/
def collisionCycle : Check → Nat → Nat
  | .afterHigh, t => t - 1
  | .afterGuard, t => t

/-- TX_BYTEIDX and TX_BITIDX at the end of SEND_FRAME as a run. DESIGN CHOICE (entry 28): 43_transmission.md R204 and
10_state.md R42 give no end values; the run leaves the failing cell's indices, or the last cell's. ARB's clock cycle, which
has entered the next cell when check 2 is made, leaves the next cell's. -/
def FrameDrive.lastCell (o : FrameDrive) (b : List Byte) : Nat × Nat :=
  match o.hit with
  | some (_, j, i) => (j, i)
  | none => (b.length - 1, 0)

/-- The history with the event of SEND_FRAME's collision, if it ended in one (43_transmission.md R205). -/
def State.raiseCollision (s : State) (o : FrameDrive) : State :=
  match o.hit with
  | some (c, j, i) => { s with events := ⟨collisionCycle c o.tEnd, collisionEvent c j i⟩ :: s.events }
  | none => s

/-- START_FRAME from the present cycle to its end; the line is not sampled and no event is raised
(43_transmission.md R200, R201). DESIGN CHOICE (entry 29): it drives in every state, where 10_state.md R29 names ARB in Starting
as the one who owns the line. -/
def execStartFrame (s : State) : Host.Outcome State Fault Refusal :=
  let w := startWave s.timing s.syncLowCyc
  .next ((s.driveWave w).reply 0x28 (.started (s.cycle + w.length)))

/-- SEND_BYTE from the present cycle to its end (43_transmission.md R203). That the caller owns the line is not asked, and
with DELTA = 0 check 1 of a later cell, in this block's own guard, reads a released line (DESIGN CHOICE, entry 29). It leaves
TX_BYTEIDX and TX_BITIDX as they are (DESIGN CHOICE, entry 28). -/
def execSendByte (b : Byte) (s : State) : Host.Outcome State Fault Refusal :=
  let o := sendByteAt s.releasedAt s.timing b s.cycle
  .next ((s.driveWave o.wave).reply 0x29 (.driven o.hit.isSome o.tNext))

/-- SEND_FRAME from the present cycle to its end: DRV_LOW, TX_BYTEIDX and TX_BITIDX are written and a collision's
event raised (43_transmission.md R204, R205). The end values of the two indices are the model's choice (entry 28). That the
caller owns the line is not asked, and with DELTA = 0 check 1 of a later cell reads a released line (DESIGN CHOICE, entry
29). A sequence that is no frame is driven as it is (DESIGN CHOICE, entry 30). -/
def execSendFrame (b : List Byte) (s : State) : Host.Outcome State Fault Refusal :=
  let o := sendFrameAt s.releasedAt s.timing b s.cycle
  let c := o.lastCell b
  .next ((({ s.driveWave o.wave with
      txByteidx := BitVec.ofNat 8 c.1
      txBitidx := BitVec.ofNat 3 c.2 }).raiseCollision o).reply 0x2A (.driven o.hit.isSome o.tEnd))

end Sys2Proof.Machine
end

