-- ==== Sys2Proof/Machine/Arbitration.lean ====
section
/-! DEFINITION. The Bus Arbitration State Machine (44_arbitration.md): the operation of each of the five states as
one clock cycle's step. `s0` is the state at the start of the cycle, which every decision reads; `s` holds the
writes of the cycle so far. DRV_LOW is a register: its value in a cycle is written in the cycle before (entry 1). -/

namespace Sys2Proof.Machine

/-- `ARB_STATE <- st; ARB_SUB <- 0` (44_arbitration.md R236). -/
def State.arbGo (s : State) (st : BitVec 3) : State := { s with arbState := st, arbSub := 0 }

/-! ### Waiting -/

/-- The frame at the head of OUTQ goes to TX_FRAME and is held (44_arbitration.md R220). DESIGN CHOICE (entry 8): the bytes
of TX_FRAME behind the frame keep the values they had, where 93_implementation_defined.md U20 allows any. -/
def State.holdFrame (s : State) (f : List Byte) : State :=
  { s with
    outq := s.outq.tail
    txFrame := s.txFrame.writeFrom 0 f
    txLen := BitVec.ofNat 8 f.length
    txHeld := true }

/-- ARB_WAITING: inbound first, then the held frame, then OUTQ (44_arbitration.md R218 to R221). -/
def arbWaiting (s0 s : State) : State :=
  match s0.ring with
  | _ :: _ => s.arbGo arbReadingCode
  | [] =>
    if s0.txHeld then s.arbGo arbListeningCode
    else
      match s0.outq with
      | f :: _ => (s.holdFrame f).arbGo arbListeningCode
      | [] => s

/-! ### Listening -/

/-- Starting is entered: SYNC low is driven from the next cycle on, for SYNC_LOW_CYC cycles
(44_arbitration.md R224, R228). -/
def State.enterStarting (s0 s : State) : State :=
  { s.arbGo arbStartingCode with arbCnt := count s0.syncLowCyc, drvLow := true }

/-- The carrier check, one sample (44_arbitration.md R223). -/
def listenCheck (s0 s : State) : State :=
  if s0.line then { s with notify := false, arbCnt := count (backoff s0.modeAddr s0.timing.delta), arbSub := 1 }
  else (s.arbGo arbWaitingCode).raise .listenBusy

/-- A cycle of the backoff (44_arbitration.md R222, R224, R225). -/
def listenBackoff (s0 s : State) : State :=
  if s0.notify then (s.arbGo arbWaitingCode).raise .backoffAbort
  else if s0.arbCnt = 1 then State.enterStarting s0 s
  else { s with arbCnt := s0.arbCnt - 1 }

/-- ARB_LISTENING (44_arbitration.md R222). -/
def arbListening (s0 s : State) : State :=
  if s0.arbSub = 1 then listenBackoff s0 s else listenCheck s0 s

/-! ### Starting -/

/-- The value of bit `i` of byte `j` of the held frame. -/
def State.txBit (s : State) (j : Nat) (i : Nat) : Bool := (s.txFrame.read j).getLsbD i

/-- The high phase of the cell of byte `j`, bit `i` begins in the next cycle (44_arbitration.md R230). -/
def State.enterCell (s0 s : State) (j : Byte) (i : BitVec 3) : State :=
  { s with
    arbSub := 0
    arbCnt := count (s0.timing.cellHigh (s0.txBit j.toNat i.toNat))
    txByteidx := j
    txBitidx := i
    drvLow := false }

/-- EV_TX_START(s0), raised in the first cycle s0 of Starting, the one in which ARB_CNT still holds the whole SYNC low
(60_exceptions.md R310, R316 row 10, 44_arbitration.md R227, R228). That the table of R236 names the event of Starting and
not its cycle is DEDUCED (entry 13). -/
def State.raiseTxStart (s0 s : State) : State :=
  if s0.arbCnt = count s0.syncLowCyc then s.raise (.txStart s0.cycle) else s

/-- SYNC_LOW, with EV_TX_START in its first cycle (44_arbitration.md R227, R228). -/
def startSyncLow (s0 s : State) : State :=
  let s1 := State.raiseTxStart s0 s
  if 1 < s0.arbCnt.toNat then { s1 with arbCnt := s0.arbCnt - 1 }
  else { s1 with arbSub := 1, arbCnt := count s0.timing.bitSync, drvLow := false }

/-- BS_HIGH (44_arbitration.md R228). -/
def startBsHigh (s0 s : State) : State :=
  if 1 < s0.arbCnt.toNat then { s with arbCnt := s0.arbCnt - 1 }
  else { s with arbSub := 2, arbCnt := count s0.timing.bitSync, drvLow := true }

/-- BS_LOW, and at its last cycle the transition to Sending, with its first cell (44_arbitration.md R227, R228, R236). -/
def startBsLow (s0 s : State) : State :=
  if 1 < s0.arbCnt.toNat then { s with arbCnt := s0.arbCnt - 1 }
  else State.enterCell s0 { s with arbState := arbSendingCode } 0 7

/-- ARB_STARTING in one cycle, by ARB_SUB (44_arbitration.md R227, R228). -/
def arbStarting (s0 s : State) : State :=
  if s0.arbSub = 1 then startBsHigh s0 s
  else if s0.arbSub = 2 then startBsLow s0 s
  else startSyncLow s0 s

/-! ### Sending -/

/-- The cell before byte `j`, bit `i` (44_arbitration.md R230). -/
def prevCell (j i : Nat) : Nat × Nat := if i = 7 then (j - 1, 0) else (j, i + 1)

/-- The present cell is not the frame's first one, so that a guard came before it (44_arbitration.md R230). -/
def State.afterGuard (s : State) : Bool := !(s.txByteidx == 0 && s.txBitidx == 7)

/-- The present cell is the frame's last one. -/
def State.lastCell (s : State) : Bool := s.txBitidx == 0 && decide (s.txLen.toNat ≤ s.txByteidx.toNat + 1)

/-- A collision's end: Listening begins with a fresh carrier check, the frame stays held, the line is released
(44_arbitration.md R229, R232). -/
def State.toListening (s : State) : State := { s.arbGo arbListeningCode with drvLow := false }

/-- The send succeeded (44_arbitration.md R231). -/
def State.sendDone (s : State) : State :=
  ({ s.arbGo arbWaitingCode with txHeld := false, notify := false, drvLow := false }).raise .txDone

/-- BIT_HIGH (44_arbitration.md R230). A count of 0 is the return cycle after check 1 failed; the first cycle of a
cell that follows a guard makes check 2 of the cell before; the last cycle makes check 1 (40_bit_codec.md R147;
entry 14). -/
def sendHigh (s0 s : State) : State :=
  let j := s0.txByteidx.toNat
  let i := s0.txBitidx.toNat
  if s0.arbCnt = 0 then s.toListening
  else if s0.arbCnt = count (s0.timing.cellHigh (s0.txBit j i)) && s0.afterGuard && !s0.line then
    (s.raise (.collisionGuard (prevCell j i).1 (prevCell j i).2)).toListening
  else if s0.arbCnt = 1 then
    if s0.line then { s with arbSub := 1, arbCnt := count Config.guardCyc, drvLow := true }
    else { s.raise (.collisionHigh j i) with arbCnt := 0 }
  else { s with arbCnt := s0.arbCnt - 1 }

/-- The guard's last cycle: the next cell begins, or after the last cell the line is only released and check 2
stands alone (44_arbitration.md R229, R230; entry 14). -/
def guardEnd (s0 s : State) : State :=
  if s0.lastCell then { s with arbCnt := 0, drvLow := false }
  else if s0.txBitidx = 0 then State.enterCell s0 s (s0.txByteidx + 1) 7
  else State.enterCell s0 s s0.txByteidx (s0.txBitidx - 1)

/-- BIT_GUARD (44_arbitration.md R230). A count of 0 is the return cycle after the last cell: check 2. -/
def sendGuard (s0 s : State) : State :=
  if s0.arbCnt = 0 then
    if s0.line then s.sendDone
    else (s.raise (.collisionGuard s0.txByteidx.toNat s0.txBitidx.toNat)).toListening
  else if s0.arbCnt = 1 then guardEnd s0 s
  else { s with arbCnt := s0.arbCnt - 1 }

/-- ARB_SENDING in one cycle, by ARB_SUB (44_arbitration.md R229, R230). -/
def arbSending (s0 s : State) : State := if s0.arbSub = 1 then sendGuard s0 s else sendHigh s0 s

/-! ### Reading -/

/-- POP: the oldest capture goes to RD_FRAME (44_arbitration.md R234). DESIGN CHOICE (entry 8): the bytes of RD_FRAME behind
the capture keep the values they had. -/
def readPop (s0 s : State) : State :=
  match s0.ring with
  | f :: _ =>
    { s with
      ring := s.ring.tail
      rdFrame := s.rdFrame.writeFrom 0 f
      rdLen := BitVec.ofNat 8 f.length
      arbCnt := count s0.params.inqWaitCyc
      arbSub := 1 }
  | [] => s

/-- WAIT: the capture is pushed to INQ, or dropped when the wait is over (44_arbitration.md R235). -/
def readWait (s0 s : State) : State :=
  if s0.inqRoom then
    ({ s with inq := s.inq ++ [s0.rdFrame.take s0.rdLen.toNat] }.arbGo arbWaitingCode).raise .inqPushed
  else if s0.arbCnt = 0 then (s.arbGo arbWaitingCode).raise .inqFull
  else { s with arbCnt := s0.arbCnt - 1 }

/-- ARB_READING (44_arbitration.md R234). -/
def arbReading (s0 s : State) : State := if s0.arbSub = 1 then readWait s0 s else readPop s0 s

/-! ### The step -/

/-- ARB_SUB values the state defines (10_state.md R40). -/
def State.arbSubDefined (s : State) : Bool :=
  match s.arbState.toNat with
  | 0 => s.arbSub == 0
  | 2 => decide (s.arbSub.toNat ≤ 2)
  | _ => decide (s.arbSub.toNat ≤ 1)

/-- ARB finds ARB_STATE in 5 to 7 (44_arbitration.md R237). -/
def arbUnreachable (s : State) : State := { s.flagInvariant with drvLow := false }

/-- What the sub-phase would do in this cycle that the spec gives no effect: pop an empty RING, or touch a byte a buffer
does not have (entry 11). -/
def State.arbNoEffect (s : State) : Option Fault :=
  match s.arbState.toNat with
  | 0 =>
    if s.ring.isEmpty && !s.txHeld && decide (Config.maxFrame < (s.outq.headD []).length) then some .bufferIndex
    else none
  | 3 => if Config.maxFrame ≤ s.txByteidx.toNat then some .bufferIndex else none
  | 4 =>
    if s.arbSub = 1 then none
    else if s.ring.isEmpty then some .popEmpty
    else if Config.maxFrame < (s.ring.headD []).length then some .bufferIndex
    else none
  | _ => none

/-- Why ARB stops in this cycle. With an undefined ARB_SUB it never stops: it is flagged and stays
(44_arbitration.md R237, 93_implementation_defined.md U7). -/
def State.arbFault (s : State) : Option Fault := if s.arbSubDefined then s.arbNoEffect else none

/-- A step of the operation `op` of the present state. An undefined ARB_SUB is flagged, the state's sub-phase 0 is run where
it has an effect, and the line is released whatever that sub-phase drives (44_arbitration.md R237, 60_exceptions.md R315,
93_implementation_defined.md U7; entry 12). -/
def arbRun (op : State → State → State) (s0 s : State) : State :=
  if s0.arbSubDefined then op s0 s
  else { (if s0.arbNoEffect = none then op s0 s.flagInvariant else s.flagInvariant) with drvLow := false }

/-- The operation of the state ARB_STATE (44_arbitration.md R215). -/
def arbStep (s0 s : State) : State :=
  match s0.arbState.toNat with
  | 0 => arbRun arbWaiting s0 s
  | 1 => arbRun arbListening s0 s
  | 2 => arbRun arbStarting s0 s
  | 3 => arbRun arbSending s0 s
  | 4 => arbRun arbReading s0 s
  | _ => arbUnreachable s

/-- ARB in one clock cycle: nothing when it is frozen or not configured (44_arbitration.md R215, R216). HOSTLOCK
is a write of this cycle. -/
def arbCycle (s0 s : State) : State := if s0.arbRuns s.hostLock then arbStep s0 s else s

/-- ARB's step as an operation of its own, when the state is the one the operation belongs to and ARB is neither
frozen nor unconfigured; otherwise ARB "writes nothing" (44_arbitration.md R215, R216). -/
def arbOperation (code : BitVec 3) (op : State → State → State) (s : State) : Host.Outcome State Fault Refusal :=
  if s.arbRuns s.hostLock && s.arbState == code then
    match s.arbFault with
    | some f => .fault f
    | none => .next (arbRun op s s)
  else .next s

/-- ARB_WAITING (44_arbitration.md R218). -/
def execArbWaiting (s : State) : Host.Outcome State Fault Refusal := arbOperation arbWaitingCode arbWaiting s

/-- ARB_LISTENING (44_arbitration.md R222). -/
def execArbListening (s : State) : Host.Outcome State Fault Refusal := arbOperation arbListeningCode arbListening s

/-- ARB_STARTING, one cycle of it (44_arbitration.md R227). -/
def execArbStarting (s : State) : Host.Outcome State Fault Refusal := arbOperation arbStartingCode arbStarting s

/-- ARB_SENDING, one cycle of it (44_arbitration.md R229). -/
def execArbSending (s : State) : Host.Outcome State Fault Refusal := arbOperation arbSendingCode arbSending s

/-- ARB_READING (44_arbitration.md R234). -/
def execArbReading (s : State) : Host.Outcome State Fault Refusal := arbOperation arbReadingCode arbReading s

end Sys2Proof.Machine
end

