-- ==== Sys2Proof/Machine/FrameFormat.lean ====
section
/-! DEFINITION. The Frame Format component (41_frame_format.md): DECODE_HEADER, SERIALIZE, DESERIALIZE and
VALIDATE, pure functions that write no register and take no cycle, and the two frame-format rows of the table
(30_encoding.md R107, R108). The `frameLen` of DECODE_HEADER is in Machine/Operands.lean. -/

namespace Sys2Proof.Machine

/-- SERIALIZE: the fields as given, nothing computed (41_frame_format.md R162). -/
def serialize : Frame → List Byte
  | .structured f =>
    [f.soh, f.src, f.dst, f.opc, f.data.d0, f.data.d1, f.data.d2, f.data.d3, f.data.d4, f.data.d5, f.pad, f.chk]
  | .generic len body => len :: body

/-- DESERIALIZE: the Frame value, or none for Malformed (41_frame_format.md R163). The shape is chosen by byte 0
alone. DESIGN CHOICE (entry 30): the empty sequence, which has no byte 0 and is no operand of R163, gives Malformed. -/
def deserialize (b : List Byte) : Option Frame :=
  match b with
  | [] => none
  | t :: r =>
    if r.length + 1 ≠ frameLen t then none
    else if t = 0 then
      match r with
      | [src, dst, opc, d0, d1, d2, d3, d4, d5, pad, chk] =>
        some (.structured ⟨t, src, dst, opc, ⟨d0, d1, d2, d3, d4, d5⟩, pad, chk⟩)
      | _ => none
    else some (.generic t r)

/-- ID_PLAUSIBLE (41_frame_format.md R166). -/
def idPlausible (x : Byte) : Bool := x != 0

/-- VALIDATE_L3: all five checks of a structured frame, none stopping the others (41_frame_format.md R166). -/
def validateL3 (b : List Byte) : Mask :=
  viol (b.getD 0 0 != 0) vL3Soh
  ||| viol (!idPlausible (b.getD 1 0)) vL3Src
  ||| viol (!idPlausible (b.getD 2 0)) vL3Dst
  ||| viol (b.getD 10 0 != 0) vL3Pad
  ||| viol (b.getD 11 0 != Config.checksumFn (b.take 11)) vL3Chk

/-- VALIDATE_GEN: terminated when some byte from index 2 on is 0x00 (41_frame_format.md R167). -/
def validateGen (b : List Byte) : Mask := viol (!(b.drop 2).contains 0) vGenUnterm

/-- VALIDATE (41_frame_format.md R165). -/
def validate (b : List Byte) : Mask := if b.headD 0 = 0 then validateL3 b else validateGen b

/-- DECODE_HEADER (41_frame_format.md R160). -/
def execDecodeHeader (t : Byte) (s : State) : Host.Outcome State Fault Refusal :=
  .next (s.reply 0x10 (.frameLen (frameLen t)))

/-- SERIALIZE (41_frame_format.md R162). -/
def execSerialize (f : Frame) (s : State) : Host.Outcome State Fault Refusal :=
  .next (s.reply 0x11 (.serialized (serialize f)))

/-- DESERIALIZE (41_frame_format.md R163). -/
def execDeserialize (b : List Byte) (s : State) : Host.Outcome State Fault Refusal :=
  .next (s.reply 0x12 (.deserialized (deserialize b)))

/-- VALIDATE as a call: the mask, or E_LENGTH when the length is not the tag's (45_host_ops.md R261). DESIGN CHOICE (entry
30): the empty sequence, which has no byte 0 and is no operand of 30_encoding.md R121, answers E_LENGTH. -/
def execValidate (b : List Byte) (s : State) : Host.Outcome State Fault Refusal :=
  .next (s.reply 0x13 (if fitsTag b then .violations .ok (some (validate b)) else .violations .eLength none))

/-- The row FRAME_STRUCTURED: the twelve bytes of the format, the tag 0x00 first, and the length the tag gives
(30_encoding.md R107, R109; entry 6). -/
def execFrameStructured (src dst opc : Byte) (data : Payload) (pad chk : Byte) (s : State) :
    Host.Outcome State Fault Refusal :=
  .next (s.reply 0x00 (.frameBytes (serialize (.structured ⟨0, src, dst, opc, data, pad, chk⟩)) (frameLen 0)))

/-- The row FRAME_GENERIC: the tag N and the bytes after it, and the length the tag gives
(30_encoding.md R108, R109; entry 6). A body that does not fit the tag is given as it is (entry 30). -/
def execFrameGeneric (len : Byte) (body : List Byte) (s : State) : Host.Outcome State Fault Refusal :=
  .next (s.reply 0x80 (.frameBytes (serialize (.generic len body)) (frameLen len)))

end Sys2Proof.Machine
end

