-- ==== Sys2Proof/Machine/Diagnostic.lean ====
section
/-! DEFINITION. The Diagnostic Engine (46_diagnostic.md): the acceptance of the three probes, INFER_GRADE, and
DIAG's step of one clock cycle, which carries a probe through the phases of R271, R278 and R288. In a step `s0` is
the state at the start of the cycle and `s` holds the writes of the cycle so far. DIAG_TMR is the number of cycles
to the ceiling T, DIAG_CNT counts the present run, DIAG_PHASE names the step of the probe. -/

namespace Sys2Proof.Machine

/-! ### Acceptance and end -/

/-- The codes of DIAG_PHASE, of the probe that runs (the numbers are the model's; entry 15). -/
abbrev phElecFall : BitVec 4 := 1
abbrev phElecRise : BitVec 4 := 2
abbrev phEdge : BitVec 4 := 1
abbrev phSyncLow : BitVec 4 := 2
abbrev phSyncHigh : BitVec 4 := 3
abbrev phBsLow : BitVec 4 := 4
abbrev phBitLow : BitVec 4 := 5
abbrev phBitHigh : BitVec 4 := 6
abbrev phLastGuard : BitVec 4 := 7
abbrev phTrailing : BitVec 4 := 8
abbrev phInjHigh : BitVec 4 := 9
abbrev phInjLow : BitVec 4 := 10
abbrev phAfterHigh : BitVec 4 := 11
abbrev phAfterLow : BitVec 4 := 12
abbrev phToCeiling : BitVec 4 := 13

/-- A probe is accepted: DIAG_MODE and HOSTLOCK in this cycle, its first cycle the next one
(46_diagnostic.md R270), its ceiling TMO_x cycles after that (R273). -/
def State.acceptProbe (s : State) (p : Probe) : State :=
  { s with
    diagMode := true
    diagOp := some p
    diagPhase := 1
    diagCnt := 0
    diagTmr := count (s.ceiling p)
    diagIdx := 0
    diagBit := 0
    diagShift := 0
    diagAcc := 0
    diagFall := 0
    hostLock := true }

/-- The refusals of a probe, in their order (46_diagnostic.md R270, 45_host_ops.md R251). -/
def State.probeStatus (s : State) : Status :=
  if s.cfgValid = false then .eNotInit else if s.probeBusy then .eBusy else .ok

/-- A probe issued in this cycle: refused with nothing changed, or accepted with the probe's first writes
(46_diagnostic.md R270). Its result comes when it ends (R273). -/
def issueProbe (p : Probe) (start : State → State) (s : State) : Host.Outcome State Fault Refusal :=
  match s.probeStatus with
  | .ok => .next (start (s.acceptProbe p))
  | st => .next (s.reply p.opId (.status st))

/-- DIAG_ELEC: from its first cycle on the line is driven low, unless the ceiling is that cycle
(46_diagnostic.md R271; entry 1). -/
def startElec (s : State) : State := { s with drvLow := decide (s.params.tmoElec ≠ 0) }

/-- DIAG_TIMING: the Raw Timing Sample is cleared (46_diagnostic.md R278, R280; entry 16). -/
def startTiming (s : State) : State := { s with dsSync := 0, dsBsh := 0, dsBsl := 0, dsBit0 := 0, dsBit1 := 0 }

/-- DIAG_ELEC as issued by HOST (46_diagnostic.md R270, R271). -/
def execDiagElec (s : State) : Host.Outcome State Fault Refusal := issueProbe .elec startElec s

/-- DIAG_TIMING as issued by HOST (46_diagnostic.md R270, R278). -/
def execDiagTiming (s : State) : Host.Outcome State Fault Refusal := issueProbe .timing startTiming s

/-- DIAG_YIELD as issued by HOST (46_diagnostic.md R270, R288). -/
def execDiagYield (s : State) : Host.Outcome State Fault Refusal := issueProbe .yield id s

/-- The end of a probe: the line released, DIAG_MODE cleared, the status returned (46_diagnostic.md R273). -/
def State.endProbe (s : State) (p : Probe) (st : Status) : State :=
  ({ s with diagMode := false, diagOp := none, diagPhase := 0, drvLow := false }.raise (.diagDone p st)).reply
    p.opId (.status st)

/-! ### INFER_GRADE -/

/-- INFER_GRADE: the thresholds 2, 3, 6 and 23 units, each strict (46_diagnostic.md R286, 30_encoding.md R127). -/
def inferGrade (u w : Nat) : BitVec 3 :=
  if w < 2 * u then 3
  else if w < 3 * u then 2
  else if w < 6 * u then 1
  else if w < 23 * u then 0
  else 7

/-- INFER_GRADE as an operation (46_diagnostic.md R286). -/
def execInferGrade (w : Count) (s : State) : Host.Outcome State Fault Refusal :=
  .next (s.reply 0x53 (.grade (inferGrade s.params.uInf w.toNat)))

/-! ### Shared moves -/

/-- The ceiling is this cycle (46_diagnostic.md R273). -/
def State.atCeiling (s : State) : Bool := s.diagTmr == 0

/-- The probe goes to a phase with a run count; one cycle less is left to the ceiling. -/
def State.diagGo (s0 s : State) (phase : BitVec 4) (n : Nat) : State :=
  { s with diagPhase := phase, diagCnt := count n, diagTmr := s0.diagTmr - 1 }

/-- One more cycle of the present run. -/
def State.diagCount (s0 s : State) : State :=
  { s with diagCnt := s0.diagCnt + 1, diagTmr := s0.diagTmr - 1 }

/-- The probe waits in its phase. -/
def State.diagStay (s0 s : State) : State := { s with diagTmr := s0.diagTmr - 1 }

/-- DIAG finds DIAG_PHASE at a value its probe does not have (10_state.md R43; entry 12). -/
def diagUnreachable (s : State) : State := { s.flagInvariant with drvLow := false }

/-! ### DIAG_ELEC -/

/-- The results of DIAG_ELEC and its end (46_diagnostic.md R271). -/
def State.endElec (s : State) (fall rise period : Count) (tmo : Bool) : State :=
  { s with deFall := fall, deRise := rise, dePeriod := period, deStatus := tmo }.endProbe .elec
    (if tmo then .eDiagTmo else .ok)

/-- The line is driven and still reads high: `f` is counted; in the last cycle before the ceiling it is released
(46_diagnostic.md R271; entry 1). -/
def elecFall (s0 s : State) : State :=
  if s0.atCeiling then s.endElec (count s0.params.tmoElec) 0 0 true
  else if s0.line then
    let s1 := State.diagCount s0 s
    if s0.diagTmr = 1 then { s1 with drvLow := false } else s1
  else State.diagGo s0 { s with diagFall := s0.diagCnt, drvLow := false } phElecRise 0

/-- The line is released and still reads low: `w` is counted (46_diagnostic.md R271). -/
def elecRise (s0 s : State) : State :=
  if s0.atCeiling then s.endElec s0.diagFall s0.diagCnt 0 true
  else if s0.line then s.endElec s0.diagFall s0.diagCnt (s0.diagFall + s0.diagCnt) false
  else State.diagCount s0 s

/-- A cycle of DIAG_ELEC. -/
def elecStep (s0 s : State) : State :=
  match s0.diagPhase.toNat with
  | 1 => elecFall s0 s
  | 2 => elecRise s0 s
  | _ => diagUnreachable s

/-! ### DIAG_TIMING -/

/-- DIAG_GRADE at the end of a pass: inferred from DS_BIT0 when it was recorded, else UNCLASSIFIED
(46_diagnostic.md R278, R286). -/
def State.passGrade (s : State) : BitVec 3 :=
  if s.dsBit0 = 0 then 7 else inferGrade s.params.uInf s.dsBit0.toNat

/-- FINISH: the mask and the grade, written once, and the end (46_diagnostic.md R278, R280). -/
def State.finishTiming (s : State) (v : Mask) (st : Status) : State :=
  { s with diagViol := v, diagGrade := s.passGrade }.endProbe .timing st

/-- A later step did not complete before the ceiling (46_diagnostic.md R279). -/
def timingCeiling (s0 s : State) : State := s.finishTiming (s0.diagAcc ||| vProbeTmo) .eDiagTmo

/-- The wait for a falling edge (46_diagnostic.md R278, R279). -/
def timingEdge (s0 s : State) : State :=
  if s0.atCeiling then s.finishTiming vSyncAbsent .eDiagTmo
  else if s0.fall then State.diagGo s0 s phSyncLow 1
  else State.diagStay s0 s

/-- The violations of a SYNC low run (46_diagnostic.md R283). -/
def State.syncViolations (s : State) (n : Nat) : Mask :=
  viol (decide (s.timing.lowTmo < n)) vSyncLong ||| viol (decide (n < s.params.syncMin.get s.modeGrade)) vSyncShort

/-- The SYNC low phase (46_diagnostic.md R278). -/
def timingSyncLow (s0 s : State) : State :=
  if s0.atCeiling then timingCeiling s0 s
  else if s0.line then
    State.diagGo s0 { s with
      dsSync := s0.diagCnt
      diagAcc := s0.diagAcc ||| s0.syncViolations s0.diagCnt.toNat } phSyncHigh 1
  else State.diagCount s0 s

/-- The bit-sync high phase (46_diagnostic.md R278). -/
def timingSyncHigh (s0 s : State) : State :=
  if s0.atCeiling then timingCeiling s0 s
  else if s0.line then State.diagCount s0 s
  else
    State.diagGo s0 { s with
      dsBsh := s0.diagCnt
      diagAcc := s0.diagAcc ||| viol (!s0.timing.bitSyncConformant s0.diagCnt.toNat) vBshRange } phBsLow 1

/-- The bit-sync low phase (46_diagnostic.md R278). -/
def timingBsLow (s0 s : State) : State :=
  if s0.atCeiling then timingCeiling s0 s
  else if s0.line then
    State.diagGo s0 { s with
      dsBsl := s0.diagCnt
      diagAcc := s0.diagAcc ||| viol (!s0.timing.bitSyncConformant s0.diagCnt.toNat) vBslRange } phBitHigh 1
  else State.diagCount s0 s

/-- A bit that never resolved ends the pass by the probe's own decision (46_diagnostic.md R282). -/
def timingFault (s0 s : State) : State := s.finishTiming (s0.diagAcc ||| vBitFault) .ok

/-- SAMPLE_BIT's wait for the line to rise (40_bit_codec.md R145). -/
def timingBitLow (s0 s : State) : State :=
  if s0.atCeiling then timingCeiling s0 s
  else if s0.line then State.diagGo s0 s phBitHigh 1
  else if s0.timing.lowTmo ≤ s0.diagCnt.toNat then timingFault s0 s
  else State.diagCount s0 s

/-- The first width of each bit value is recorded (46_diagnostic.md R281). -/
def State.recordWidth (s0 s : State) (v : Bool) : State :=
  if v then (if s0.dsBit1 = 0 then { s with dsBit1 := s0.diagCnt } else s)
  else if s0.dsBit0 = 0 then { s with dsBit0 := s0.diagCnt } else s

/-- The probe's byte with the bit just sampled, bit 7 first (46_diagnostic.md R278). -/
def diagShiftIn (s0 : State) (v : Bool) : Byte :=
  setBit (if s0.diagBit = 0 then 0 else s0.diagShift) (7 - s0.diagBit.toNat) v

/-- A byte is complete: stored, and after the last one the last guard is measured (46_diagnostic.md R278). -/
def timingByteDone (s0 s : State) (b : Byte) : State :=
  let s1 := { s with
    diagBuf := s.diagBuf.write s0.diagIdx.toNat b
    diagIdx := s0.diagIdx + 1
    diagBit := 0
    diagShift := b }
  if s0.diagIdx.toNat + 1 < frameLen (s1.diagBuf.read 0) then State.diagGo s0 s1 phBitLow 1
  else State.diagGo s0 s1 phLastGuard 1

/-- A bit is sampled (46_diagnostic.md R278, R281). -/
def timingBitDone (s0 s : State) (v : Bool) : State :=
  let s1 := State.recordWidth s0 s v
  let b := diagShiftIn s0 v
  if s0.diagBit = 7 then timingByteDone s0 s1 b
  else State.diagGo s0 { s1 with diagShift := b, diagBit := s0.diagBit + 1 } phBitLow 1

/-- SAMPLE_BIT's high phase (40_bit_codec.md R142 to R144). -/
def timingBitHigh (s0 s : State) : State :=
  if s0.atCeiling then timingCeiling s0 s
  else if s0.line then
    if s0.timing.highTmo ≤ s0.diagCnt.toNat then timingFault s0 s else State.diagCount s0 s
  else timingBitDone s0 s (s0.timing.classify s0.diagCnt.toNat)

/-- The last guard phase (46_diagnostic.md R278, R282; entry 17). -/
def timingLastGuard (s0 s : State) : State :=
  if s0.atCeiling then timingCeiling s0 s
  else if s0.line then State.diagGo s0 s phTrailing 1
  else if s0.timing.lowTmo ≤ s0.diagCnt.toNat then timingFault s0 s
  else State.diagCount s0 s

/-- The capture is complete and validated (46_diagnostic.md R278, R285). -/
def timingComplete (s0 s : State) (trailing : Bool) : State :=
  let b := s0.diagBuf.take (frameLen (s0.diagBuf.read 0))
  s.finishTiming (s0.diagAcc ||| viol trailing vTrailing ||| validate b) .ok

/-- The high run after the last guard: a fall within the longest conformant bit is trailing data, and past that
the probe stops watching (46_diagnostic.md R278, R284; entry 17). -/
def timingTrailing (s0 s : State) : State :=
  if s0.atCeiling then timingCeiling s0 s
  else if s0.timing.longestBit < s0.diagCnt.toNat then timingComplete s0 s false
  else if s0.line then State.diagCount s0 s
  else timingComplete s0 s true

/-- A cycle of DIAG_TIMING. -/
def timingStep (s0 s : State) : State :=
  match s0.diagPhase.toNat with
  | 1 => timingEdge s0 s
  | 2 => timingSyncLow s0 s
  | 3 => timingSyncHigh s0 s
  | 4 => timingBsLow s0 s
  | 5 => timingBitLow s0 s
  | 6 => timingBitHigh s0 s
  | 7 => timingLastGuard s0 s
  | 8 => timingTrailing s0 s
  | _ => diagUnreachable s

/-! ### DIAG_YIELD -/

/-- The codes of DIAG_YIELD (30_encoding.md R128). -/
abbrev yieldNone : BitVec 2 := 0
abbrev yieldDidNot : BitVec 2 := 1
abbrev yieldYielded : BitVec 2 := 2

/-- END of the forced-yield probe (46_diagnostic.md R288). -/
def State.endYield (s : State) (outcome : BitVec 2) (st : Status) : State :=
  { s with diagYield := outcome }.endProbe .yield st

/-- A step before the injection did not complete before the ceiling (46_diagnostic.md R288). -/
def yieldCeiling (s : State) : State := s.endYield yieldNone .eDiagTmo

/-- A bit fault of the tag byte, or a guard that does not end: no transmission observed (46_diagnostic.md R288,
R289). -/
def yieldFault (s : State) : State := s.endYield yieldNone .ok

/-- The wait for a frame start (46_diagnostic.md R289). -/
def yieldEdge (s0 s : State) : State :=
  if s0.atCeiling then yieldCeiling s
  else if s0.fall then State.diagGo s0 s phSyncLow 1
  else State.diagStay s0 s

/-- The SYNC low phase: a run that passes its limit is noise and the probe goes on looking
(46_diagnostic.md R288, R289). -/
def yieldSyncLow (s0 s : State) : State :=
  if s0.atCeiling then yieldCeiling s
  else if s0.line then State.diagGo s0 s phSyncHigh 1
  else if s0.timing.lowTmo ≤ s0.diagCnt.toNat then State.diagGo s0 s phEdge 0
  else State.diagCount s0 s

/-- The high phase after SYNC: one too short ends in a fall, which is itself the next edge looked at
(46_diagnostic.md R288). -/
def yieldSyncHigh (s0 s : State) : State :=
  if s0.atCeiling then yieldCeiling s
  else if s0.line then
    if s0.timing.highTmo ≤ s0.diagCnt.toNat then State.diagGo s0 s phEdge 0 else State.diagCount s0 s
  else if s0.diagCnt.toNat < s0.timing.syncHighMin then State.diagGo s0 s phSyncLow 1
  else State.diagGo s0 s phBsLow 1

/-- The bit-sync low phase (46_diagnostic.md R288). -/
def yieldBsLow (s0 s : State) : State :=
  if s0.atCeiling then yieldCeiling s
  else if s0.line then State.diagGo s0 { s with diagBit := 0 } phBitHigh 1
  else if s0.timing.lowTmo ≤ s0.diagCnt.toNat then State.diagGo s0 s phEdge 0
  else State.diagCount s0 s

/-- SAMPLE_BIT of the tag byte, the wait for the line to rise (46_diagnostic.md R288, 40_bit_codec.md R145). -/
def yieldBitLow (s0 s : State) : State :=
  if s0.atCeiling then yieldCeiling s
  else if s0.line then State.diagGo s0 s phBitHigh 1
  else if s0.timing.lowTmo ≤ s0.diagCnt.toNat then yieldFault s
  else State.diagCount s0 s

/-- SAMPLE_BIT of the tag byte, the high phase; after the eighth bit its guard is waited out
(46_diagnostic.md R288). -/
def yieldBitHigh (s0 s : State) : State :=
  if s0.atCeiling then yieldCeiling s
  else if s0.line then
    if s0.timing.highTmo ≤ s0.diagCnt.toNat then yieldFault s else State.diagCount s0 s
  else
    let s1 := { s with
      diagShift := diagShiftIn s0 (s0.timing.classify s0.diagCnt.toNat)
      diagBit := s0.diagBit + 1 }
    if s0.diagBit = 7 then State.diagGo s0 s1 phLastGuard 1 else State.diagGo s0 s1 phBitLow 1

/-- A cycle of an injected cell's high phase, `n` of its cycles done after this one: the line stays released, and
after DELTA cycles the cell's guard begins (46_diagnostic.md R288, R291). -/
def State.injectHigh (s0 s : State) (n : Nat) : State :=
  if n < s0.timing.delta then State.diagGo s0 { s with drvLow := false } phInjHigh n
  else State.diagGo s0 { s with drvLow := true } phInjLow 0

/-- The cycles an injection and its observation may still take from its first cycle on
(46_diagnostic.md R288: INJ_BITS * C + HIGH_TMO + GUARD_CYC). -/
def Timing.injectionSpan (p : Timing) : Nat :=
  Config.injBits * (p.delta + Config.guardCyc) + p.highTmo + Config.guardCyc

/-- The guard of the tag byte's last bit; at its end the injection begins, or there is no time for it
(46_diagnostic.md R288). -/
def yieldGuard (s0 s : State) : State :=
  if s0.atCeiling then yieldCeiling s
  else if s0.line then
    if s0.diagTmr.toNat ≤ s0.timing.injectionSpan then State.diagGo s0 s phToCeiling 0
    else State.injectHigh s0 { s with diagIdx := 0 } 1
  else if s0.timing.lowTmo ≤ s0.diagCnt.toNat then yieldFault s
  else State.diagCount s0 s

/-- The guard of an injected cell, 150 cycles; then the next cell, or the observation (46_diagnostic.md R288, R291).
DIAG_IDX is the index of the cell. -/
def yieldInjLow (s0 s : State) : State :=
  if s0.diagCnt.toNat + 1 < Config.guardCyc then State.diagCount s0 s
  else if s0.diagIdx.toNat + 1 < Config.injBits then
    State.diagGo s0 { s with diagIdx := s0.diagIdx + 1, drvLow := false } phInjHigh 0
  else State.diagGo s0 { s with drvLow := false } phAfterHigh 0

/-- The high run after the injection (46_diagnostic.md R288, R292). -/
def yieldAfterHigh (s0 s : State) : State :=
  if s0.line then
    if s0.timing.highTmo ≤ s0.diagCnt.toNat then s.endYield yieldYielded .ok else State.diagCount s0 s
  else State.diagGo s0 s phAfterLow 1

/-- The low run after it: a guard's length or less is a device that went on (46_diagnostic.md R288, R292). -/
def yieldAfterLow (s0 s : State) : State :=
  if s0.line then s.endYield yieldDidNot .ok
  else if Config.guardCyc ≤ s0.diagCnt.toNat then s.endYield yieldYielded .ok
  else State.diagCount s0 s

/-- A cycle of DIAG_YIELD. -/
def yieldStep (s0 s : State) : State :=
  match s0.diagPhase.toNat with
  | 1 => yieldEdge s0 s
  | 2 => yieldSyncLow s0 s
  | 3 => yieldSyncHigh s0 s
  | 4 => yieldBsLow s0 s
  | 5 => yieldBitLow s0 s
  | 6 => yieldBitHigh s0 s
  | 7 => yieldGuard s0 s
  | 9 => State.injectHigh s0 s (s0.diagCnt.toNat + 1)
  | 10 => yieldInjLow s0 s
  | 11 => yieldAfterHigh s0 s
  | 12 => yieldAfterLow s0 s
  | 13 => if s0.atCeiling then yieldCeiling s else State.diagStay s0 s
  | _ => diagUnreachable s

/-! ### The step -/

/-- The step of a running probe; DIAG_MODE without a probe is unreachable (entry 12). -/
def diagStep (s0 s : State) : State :=
  match s0.diagOp with
  | some .elec => elecStep s0 s
  | some .timing => timingStep s0 s
  | some .yield => yieldStep s0 s
  | none => diagUnreachable s

/-- DIAG in one clock cycle. -/
def diagCycle (s0 s : State) : State := if s0.diagMode then diagStep s0 s else s

/-- DIAG would store a byte at an index DIAG_BUF does not have (20_memory.md R71; entry 11). -/
def diagIndexFault (s0 : State) : Bool :=
  s0.diagMode && s0.diagOp == some .timing && s0.diagPhase == phBitHigh && !s0.atCeiling && !s0.line
  && s0.diagBit == 7 && decide (Config.maxFrame ≤ s0.diagIdx.toNat)

end Sys2Proof.Machine
end

