-- ==== Sys2Proof/Machine/HostOps.lean ====
section
/-! DEFINITION. The host operations INIT, SUBMIT, RETRIEVE and READ_STATUS (45_host_ops.md), each as the call
issued in the present cycle; the clock cycle around a call is the step's. VALIDATE is in
Machine/FrameFormat.lean, the probes in Machine/Diagnostic.lean. -/

namespace Sys2Proof.Machine

/-- The writes of a successful INIT (45_host_ops.md R252). -/
def State.configure (s : State) (m : BusMode) : State :=
  let d := s.params.delta.get m.grade
  let t := s.params.tol.get m.grade
  { s with
    modeAddr := m.addr
    modeCtrl := m.ctrl
    modeRdpol := m.rdpol
    modeGrade := m.grade
    tpDelta := count d
    tpTol := count t
    tpSkew := 0
    tpWmin := count (d - t)
    tpWmax := count (d + t)
    ring := []
    inq := []
    outq := []
    txHeld := false
    notify := false
    statInvariant := false
    arbState := arbWaitingCode
    arbSub := 0
    arbCnt := 0
    rxPhase := 0
    drvLow := false
    cfgValid := true
    hostLock := true }

/-- The status INIT returns: the three tests in their order (45_host_ops.md R252, 60_exceptions.md R321). -/
def State.initStatus (s : State) (m : BusMode) : Status :=
  if m.addr = 0 then .eAddrZero
  else if s.inputNow.pinOk = false then .ePin
  else if s.busy then .eBusy
  else .ok

/-- INIT (45_host_ops.md R252, R253). A failing INIT writes nothing. -/
def execInit (m : BusMode) (s : State) : Host.Outcome State Fault Refusal :=
  match s.initStatus m with
  | .ok => .next (((s.configure m).raise .initOk).reply 0x40 (.status .ok))
  | st => .next ((s.raise (.initFail st)).reply 0x40 (.status st))

/-- A frame pushed to OUTQ and the call returned (45_host_ops.md R255). -/
def State.submitPush (s : State) (b : List Byte) : State :=
  ({ s with outq := s.outq ++ [b], subWait := none }.raise .submitOk).reply 0x41 (.status .ok)

/-- The wait of SUBMIT is over without room (45_host_ops.md R255, R256). -/
def State.submitFull (s : State) : State :=
  ({ s with subWait := none }.raise .submitFull).reply 0x41 (.status .eQueueFull)

/-- SUBMIT in its cycle of issue (45_host_ops.md R251, R254 to R256): refused, pushed, or left waiting; `wait` = 0
is a single attempt. -/
def execSubmit (b : List Byte) (w : Wait) (s : State) : Host.Outcome State Fault Refusal :=
  if s.subWait.isSome then .refused .secondOfClass
  else if s.cfgValid = false then .next (s.reply 0x41 (.status .eNotInit))
  else if fitsTag b = false then .next (s.reply 0x41 (.status .eLength))
  else if s.outqRoom then .next (s.submitPush b)
  else if w = .cycles 0 then .next s.submitFull
  else .next { s with subWait := some ⟨b, w⟩ }

/-- The oldest inbound frame handed to HOST (45_host_ops.md R258, R260). -/
def State.retrievePop (s : State) (b : List Byte) : State :=
  ({ s with inq := s.inq.tail, retWait := false }.raise .retrieveOk).reply 0x42 (.retrieved .ok (some b))

/-- RETRIEVE in its cycle of issue (45_host_ops.md R251, R258): a frame, NONE under INSTANT, left waiting under
ASYNC. -/
def execRetrieve (s : State) : Host.Outcome State Fault Refusal :=
  if s.retWait then .refused .secondOfClass
  else if s.cfgValid = false then .next (s.reply 0x42 (.retrieved .eNotInit none))
  else
    match s.inq with
    | b :: _ => .next (s.retrievePop b)
    | [] =>
      if s.modeRdpol then .next { s with retWait := true }
      else .next ((s.raise .retrieveNone).reply 0x42 (.retrieved .none none))

/-- Every host-visible register (45_host_ops.md R262). -/
def State.view (s : State) : StatusView where
  cfgValid := s.cfgValid
  modeAddr := s.modeAddr
  modeCtrl := s.modeCtrl
  modeRdpol := s.modeRdpol
  modeGrade := s.modeGrade
  tpDelta := s.tpDelta
  tpTol := s.tpTol
  tpWmin := s.tpWmin
  tpWmax := s.tpWmax
  tpSkew := s.tpSkew
  statInvariant := s.statInvariant
  dsSync := s.dsSync
  dsBsh := s.dsBsh
  dsBsl := s.dsBsl
  dsBit0 := s.dsBit0
  dsBit1 := s.dsBit1
  diagGrade := s.diagGrade
  diagViol := s.diagViol
  deFall := s.deFall
  deRise := s.deRise
  dePeriod := s.dePeriod
  deStatus := s.deStatus
  diagYield := s.diagYield

/-- READ_STATUS: writes nothing, never refused (45_host_ops.md R262). -/
def execReadStatus (s : State) : Host.Outcome State Fault Refusal := .next (s.reply 0x43 (.registers s.view))

/-! ### The waiting calls in a clock cycle

`s0` is the state at the start of the cycle; a call issued in this cycle is not waiting in it yet. -/

/-- The wait of a SUBMIT after one more failed attempt (45_host_ops.md R256). -/
def submitWaits (s : State) (w : Waiting) : State :=
  match w.left with
  | .forever => s
  | .cycles n => if n.toNat ≤ 1 then s.submitFull else { s with subWait := some ⟨w.frame, .cycles (n - 1)⟩ }

/-- The attempt of a waiting SUBMIT, one a cycle (45_host_ops.md R255, R256). -/
def submitCycle (s0 s : State) : State :=
  match s0.subWait with
  | none => s
  | some w => if s0.outqRoom then s.submitPush w.frame else submitWaits s w

/-- A waiting RETRIEVE completes in the first cycle INQ is not empty at its start (45_host_ops.md R259). -/
def retrieveCycle (s0 s : State) : State :=
  if s0.retWait then
    match s0.inq with
    | b :: _ => s.retrievePop b
    | [] => s
  else s

/-- The waiting calls of HOST in one clock cycle. -/
def hostCycle (s0 s : State) : State := submitCycle s0 (retrieveCycle s0 s)

end Sys2Proof.Machine
end

