-- ==== Sys2Proof/Machine/LineSymbols.lean ====
section
/-! DEFINITION. The line-symbol rows of the table (30_encoding.md R102 to R105) as the sender puts them on the line:
each drives its waveform from the present cycle on, samples nothing, and leaves the line released. The receiver's
side of the same symbols is R106, in Machine/BitCodec.lean and Machine/Reception.lean. See entry 6. -/

namespace Sys2Proof.Machine

/-- The cells of a byte, bit `k - 1` first (30_encoding.md R110). -/
def bitsWave (p : Timing) (b : Byte) : Nat → List Bool
  | 0 => []
  | k + 1 => cellWave p (b.getLsbD k) ++ bitsWave p b k

/-- The cells of a byte sequence, bytes in increasing index, bit 7 of each first (30_encoding.md R105). -/
def bytesWave (p : Timing) : List Byte → List Bool
  | [] => []
  | b :: r => bitsWave p b 8 ++ bytesWave p r

/-- A frame on the line: SYNC, BITSYNC, then the cells, with no gap (30_encoding.md R105). -/
def frameWave (p : Timing) (syncLow : Nat) (b : List Byte) : List Bool := startWave p syncLow ++ bytesWave p b

/-- A symbol driven from the present cycle, the line released after it, and its end cycle. -/
def State.putOnLine (s : State) (tag : Byte) (w : List Bool) : State :=
  (s.driveWave w).reply tag (.onLine (s.cycle + w.length))

/-- SYM_SYNC: the line driven low for SYNC_LOW_CYC cycles (30_encoding.md R102). -/
def execSymSync (s : State) : Host.Outcome State Fault Refusal := .next (s.putOnLine 0x81 (syncWave s.syncLowCyc))

/-- SYM_BITSYNC: released for 8 * DELTA cycles, then low for 8 * DELTA cycles (30_encoding.md R103). -/
def execSymBitsync (s : State) : Host.Outcome State Fault Refusal := .next (s.putOnLine 0x82 (bitSyncWave s.timing))

/-- SYM_BIT0: released for DELTA cycles, then low for the guard (30_encoding.md R104). -/
def execSymBit0 (s : State) : Host.Outcome State Fault Refusal := .next (s.putOnLine 0x83 (cellWave s.timing false))

/-- SYM_BIT1: released for 2 * DELTA cycles, then low for the guard (30_encoding.md R104). -/
def execSymBit1 (s : State) : Host.Outcome State Fault Refusal := .next (s.putOnLine 0x84 (cellWave s.timing true))

/-- FRAME_ON_LINE: the whole frame as the sender's symbols (30_encoding.md R105). A sequence that is no frame is driven as it
is (DESIGN CHOICE, entry 30), and TX_BYTEIDX and TX_BITIDX stay as they are (DESIGN CHOICE, entry 28). -/
def execFrameOnLine (b : List Byte) (s : State) : Host.Outcome State Fault Refusal :=
  .next (s.putOnLine 0x85 (frameWave s.timing s.syncLowCyc b))

end Sys2Proof.Machine
end

