-- ==== Sys2Proof/Machine/Reception.lean ====
section
/-! DEFINITION. The Reception Path (42_reception.md): RX_FRAME as an exact function of the trigger cycle and the
trace (R181), its meaning, and the receiver's step of one clock cycle, which produces the same reception in the
registers of 10_state.md R32 to R34. -/

namespace Sys2Proof.Machine

/-- What a reception came to before the push: a complete capture, or an abort and its event (42_reception.md R181). -/
inductive Reception where
  | complete
  | aborted (e : Event)
deriving DecidableEq, Repr

/-- A reception on a trace: how it ended, its last cycle, and the bytes stored in RX_BUF (42_reception.md R181). -/
structure RxTrace where
  outcome : Reception
  tEnd : Nat
  bytes : List Byte
deriving DecidableEq, Repr

/-- `k` further bytes sampled after those in `got` (42_reception.md R186, R187). -/
def rxBytesAt (tr : Nat → Bool) (p : Timing) : Nat → Nat → List Byte → RxTrace
  | 0, t, got => ⟨.complete, t, got⟩
  | k + 1, t, got =>
    let o := sampleByteAt tr p t
    match o.r with
    | .fault _ => ⟨.aborted .rxBitFault, o.tEnd, got⟩
    | .byte b => rxBytesAt tr p k o.tEnd (got ++ [b])

/-- The tag byte and the bytes it announces, from the first cycle of the first bit cell (42_reception.md R185,
R186). -/
def rxBodyAt (tr : Nat → Bool) (p : Timing) (t : Nat) : RxTrace :=
  let o := sampleByteAt tr p t
  match o.r with
  | .fault _ => ⟨.aborted .rxBitFault, o.tEnd, []⟩
  | .byte b => rxBytesAt tr p (frameLen b - 1) o.tEnd [b]

/-- RX_FRAME on a trace, up to the push (42_reception.md R181 to R188). -/
def rxFrameAt (tr : Nat → Bool) (p : Timing) (tf : Nat) : RxTrace :=
  let n := runLen tr false (p.lowTmo + 1) tf
  if p.lowTmo < n then ⟨.aborted .rxSyncLow, tf + p.lowTmo, []⟩
  else
    let t1 := tf + n
    let m := runLen tr true (p.highTmo + 1) t1
    if p.highTmo < m then ⟨.aborted .rxHighTmo, t1 + p.highTmo, []⟩
    else
      let tb := t1 + m
      if m < p.syncHighMin then ⟨.aborted .rxShortHigh, tb, []⟩
      else
        let k := runLen tr false (p.lowTmo + 1) tb
        if p.lowTmo < k then ⟨.aborted .rxBsLow, tb + p.lowTmo, []⟩
        else rxBodyAt tr p (tb + k)

/-- The registers a reception leaves before its end: the bytes in RX_BUF, their number, and RX_LEN once the tag
is there (42_reception.md R181, R188). DESIGN CHOICE (entry 8): the bytes of RX_BUF behind them keep the values they had. -/
def State.storeCapture (s : State) (bytes : List Byte) : State :=
  { s with
    rxBuf := s.rxBuf.writeFrom 0 bytes
    rxByteidx := BitVec.ofNat 8 bytes.length
    rxBitidx := 0
    rxLen := match bytes with
      | [] => s.rxLen
      | t :: _ => BitVec.ofNat 8 (frameLen t) }

/-- The result of a reception (42_reception.md R181): whether the ring had room decides between the two complete
ones (R189). -/
def RxTrace.result (o : RxTrace) (room : Bool) : RxOutcome :=
  match o.outcome with
  | .aborted e => .aborted e
  | .complete => if room then .pushed o.bytes else .dropped o.bytes

/-- RX_FRAME from its trigger cycle to its end (42_reception.md R181). When this cycle is no trigger nothing
starts (R180), and the answer notTriggered, with no cycle passed, is the model's (DESIGN CHOICE, entry 31). The writes of the last cycle are visible in the cycle after it, where the meaning ends (R191;
entry 18). -/
def execRxFrame (s : State) : Host.Outcome State Fault Refusal :=
  if s.trig then
    let o := rxFrameAt s.lineAt s.timing s.cycle
    let s1 := (s.takeEdge.passIdle (o.tEnd - s.cycle)).storeCapture o.bytes
    let s2 := match o.outcome with
      | .aborted e => s1.endReception e
      | .complete => State.endCapture s1 s1 o.bytes
    .next ((s2.reply 0x20 (.received (o.result (s1.ringRoom o.bytes)) o.tEnd)).passIdle 1)
  else .next (s.reply 0x20 .notTriggered)

/-! ### The receiver's step of one clock cycle

`s0` is the state at the start of the cycle, which every decision reads; `s` holds the writes of the cycle so far. -/

/-- The receiver goes to a phase whose run the present cycle begins, with RX_CNT = 1: that it counts up from 1 is the model's
(DESIGN CHOICE, entry 32). -/
def State.rxGo (s : State) (phase : BitVec 3) : State := { s with rxPhase := phase, rxCnt := 1 }

/-- One more cycle of the current run (10_state.md R33; entry 32). -/
def State.rxCount (s0 s : State) : State := { s with rxCnt := s0.rxCnt + 1 }

/-- SYNC_LOW (42_reception.md R182). -/
def rxSyncLow (s0 s : State) : State :=
  if s0.line then s.rxGo 2
  else if s0.timing.lowTmo ≤ s0.rxCnt.toNat then s.endReception .rxSyncLow
  else State.rxCount s0 s

/-- SYNC_HIGH (42_reception.md R183). -/
def rxSyncHigh (s0 s : State) : State :=
  if s0.line then
    if s0.timing.highTmo ≤ s0.rxCnt.toNat then s.endReception .rxHighTmo else State.rxCount s0 s
  else if s0.rxCnt.toNat < s0.timing.syncHighMin then s.endReception .rxShortHigh
  else s.rxGo 3

/-- BS_LOW (42_reception.md R184). -/
def rxBsLow (s0 s : State) : State :=
  if s0.line then s.rxGo 5
  else if s0.timing.lowTmo ≤ s0.rxCnt.toNat then s.endReception .rxBsLow
  else State.rxCount s0 s

/-- BIT_LOW: SAMPLE_BIT waits for the line to rise (40_bit_codec.md R145). -/
def rxBitLow (s0 s : State) : State :=
  if s0.line then s.rxGo 5
  else if s0.timing.lowTmo ≤ s0.rxCnt.toNat then s.endReception .rxBitFault
  else State.rxCount s0 s

/-- RX_SHIFT with the bit just sampled: filled from bit 7 down, the first bit clearing the rest
(10_state.md R33, 40_bit_codec.md R146). -/
def rxShiftIn (s0 : State) (v : Bool) : Byte :=
  setBit (if s0.rxBitidx = 0 then 0 else s0.rxShift) (7 - s0.rxBitidx.toNat) v

/-- A byte is complete: stored, the length taken from the tag, and the reception ended after the last one
(42_reception.md R185 to R189). -/
def rxByteDone (s0 s : State) (b : Byte) : State :=
  let len := if s0.rxByteidx = 0 then frameLen b else s0.rxLen.toNat
  let s1 := { s with
    rxShift := b
    rxBitidx := 0
    rxBuf := s.rxBuf.write s0.rxByteidx.toNat b
    rxLen := BitVec.ofNat 8 len
    rxByteidx := s0.rxByteidx + 1 }
  if s0.rxByteidx.toNat + 1 < len then s1.rxGo 4
  else State.endCapture s0 s1 (s1.rxBuf.take len)

/-- A bit is sampled (40_bit_codec.md R141): shifted in, and the next one waits for the guard to end. -/
def rxBitDone (s0 s : State) (v : Bool) : State :=
  let b := rxShiftIn s0 v
  if s0.rxBitidx = 7 then rxByteDone s0 s b
  else { s with rxShift := b, rxBitidx := s0.rxBitidx + 1 }.rxGo 4

/-- BIT_HIGH: SAMPLE_BIT counts the high phase (40_bit_codec.md R142 to R144). -/
def rxBitHigh (s0 s : State) : State :=
  if s0.line then
    if s0.timing.highTmo ≤ s0.rxCnt.toNat then s.endReception .rxBitFault else State.rxCount s0 s
  else rxBitDone s0 s (s0.timing.classify s0.rxCnt.toNat)

/-- RX finds RX_PHASE at a value no running reception has: STAT_INVARIANT and EV_INVARIANT, the line released, RX_PHASE
stays as it is (30_encoding.md R112, 93_implementation_defined.md U7), and the reception ends as an abort
(44_arbitration.md R237). How the three texts go together is DEDUCED (entry 12). -/
def rxUnreachable (s : State) : State :=
  { s with rxActive := false, notify := true, drvLow := false }.flagInvariant

/-- The step of a running reception, by RX_PHASE (10_state.md R32). -/
def rxStep (s0 s : State) : State :=
  match s0.rxPhase.toNat with
  | 1 => rxSyncLow s0 s
  | 2 => rxSyncHigh s0 s
  | 3 => rxBsLow s0 s
  | 4 => rxBitLow s0 s
  | 5 => rxBitHigh s0 s
  | _ => rxUnreachable s

/-- RX in one clock cycle: a running reception steps, a trigger starts one, else nothing (42_reception.md R180,
R193). -/
def rxCycle (s0 s : State) : State :=
  if s0.rxActive then rxStep s0 s
  else if s0.trig then s.takeEdge
  else s

/-- The receiver would store a byte at an index that RX_BUF does not have (20_memory.md R71; entry 11). -/
def rxIndexFault (s0 : State) : Bool :=
  s0.rxActive && s0.rxPhase == 5 && !s0.line && s0.rxBitidx == 7
  && decide (Config.maxFrame ≤ s0.rxByteidx.toNat)

end Sys2Proof.Machine
end

