-- ==== Sys2Proof/Machine/Dispatch.lean ====
section
/-! DEFINITION. The meaning of every operation, one arm for each row of spec/opcode_table.json. -/

namespace Sys2Proof.Machine

def exec (i : Instr) (s : State) : Host.Outcome State Fault Refusal :=
  match i with
  | .sampleBit => Sys2Proof.Machine.execSampleBit s
  | .sampleByte => Sys2Proof.Machine.execSampleByte s
  | .driveBit v => Sys2Proof.Machine.execDriveBit v s
  | .decodeHeader t => Sys2Proof.Machine.execDecodeHeader t s
  | .serialize f => Sys2Proof.Machine.execSerialize f s
  | .deserialize b => Sys2Proof.Machine.execDeserialize b s
  | .validate b => Sys2Proof.Machine.execValidate b s
  | .rxFrame => Sys2Proof.Machine.execRxFrame s
  | .startFrame => Sys2Proof.Machine.execStartFrame s
  | .sendByte b => Sys2Proof.Machine.execSendByte b s
  | .sendFrame b => Sys2Proof.Machine.execSendFrame b s
  | .arbWaiting => Sys2Proof.Machine.execArbWaiting s
  | .arbListening => Sys2Proof.Machine.execArbListening s
  | .arbStarting => Sys2Proof.Machine.execArbStarting s
  | .arbSending => Sys2Proof.Machine.execArbSending s
  | .arbReading => Sys2Proof.Machine.execArbReading s
  | .init m => Sys2Proof.Machine.execInit m s
  | .submit b w => Sys2Proof.Machine.execSubmit b w s
  | .retrieve => Sys2Proof.Machine.execRetrieve s
  | .readStatus => Sys2Proof.Machine.execReadStatus s
  | .diagElec => Sys2Proof.Machine.execDiagElec s
  | .diagTiming => Sys2Proof.Machine.execDiagTiming s
  | .diagYield => Sys2Proof.Machine.execDiagYield s
  | .inferGrade w => Sys2Proof.Machine.execInferGrade w s
  | .frameStructured src dst opc data pad chk => Sys2Proof.Machine.execFrameStructured src dst opc data pad chk s
  | .frameGeneric len body => Sys2Proof.Machine.execFrameGeneric len body s
  | .symSync => Sys2Proof.Machine.execSymSync s
  | .symBitsync => Sys2Proof.Machine.execSymBitsync s
  | .symBit0 => Sys2Proof.Machine.execSymBit0 s
  | .symBit1 => Sys2Proof.Machine.execSymBit1 s
  | .frameOnLine b => Sys2Proof.Machine.execFrameOnLine b s

end Sys2Proof.Machine
end

