-- ==== Sys2Proof/Machine/Clock.lean ====
section
/-! DEFINITION. The clock cycle of the whole block: which calls are issued in it, the calls' effects, the agents'
steps on the contents at the start of the cycle (20_memory.md R77, R79; who wins is 60_exceptions.md R321), reset,
and an operation that runs on its own (entry 7). -/

namespace Sys2Proof.Machine

/-- The outcome of one part of a step carried into the next part. -/
def andThen (o : Host.Outcome State Fault Refusal) (f : State → Host.Outcome State Fault Refusal) :
    Host.Outcome State Fault Refusal :=
  match o with
  | .next s => f s
  | .fault r => .fault r
  | .refused r => .refused r

/-! ### The agents -/

/-- The end of a clock cycle that began in `s0`: LINE_PREV follows the line (10_state.md R30), the inputs are gone,
HOSTLOCK was this cycle's. -/
def endCycle (s0 s : State) : State :=
  { s with
    linePrev := s0.line
    cycle := s0.cycle + 1
    inputs := s0.inputs.tail
    drvTrace := s0.drvLow :: s0.drvTrace
    hostLock := false }

/-- The agents in one clock cycle: the waiting calls, RX, ARB, DIAG, each deciding on `s0` and writing to what the
others have written (20_memory.md R77, R79); `s1` is `s0` with the writes of the calls issued in this cycle. -/
def clock (s0 s1 : State) : State :=
  endCycle s0 (diagCycle s0 (arbCycle s0 (rxCycle s0 (hostCycle s0 s1))))

/-- An agent would do in this cycle what the spec gives no effect (entry 11). -/
def agentFault (s0 s1 : State) : Option Fault :=
  if rxIndexFault s0 || diagIndexFault s0 then some .bufferIndex
  else if s0.arbRuns s1.hostLock then s0.arbFault
  else none

/-- The clock cycle, unless an agent would do what has no effect. -/
def clockOut (s0 s1 : State) : Host.Outcome State Fault Refusal :=
  match agentFault s0 s1 with
  | some f => .fault f
  | none => .next (clock s0 s1)

/-! ### Reset -/

/-- Calls still to come after this cycle. -/
def State.laterCalls (s : State) : List Call := s.calls.filter (fun c => decide (s.cycle < c.due))

/-- A cycle with `rst` = 1: every register at its reset value, the line released at once, every operation and
every waiting call abandoned, calls issued in it without result (70_reset_and_hazards.md R340,
93_implementation_defined.md U24; entry 19). -/
def resetCycle (s : State) : State :=
  { State.resetWith s.params with
    cycle := s.cycle + 1
    inputs := s.inputs.tail
    calls := s.laterCalls
    drvTrace := false :: s.drvTrace
    events := s.events
    replies := s.replies }

/-- The number of cycles before the first one with `rst` = 1, if there is one. -/
def untilReset : List CycleIn → Option Nat
  | [] => none
  | c :: r => if c.rst then some 0 else (untilReset r).map (· + 1)

/-- An operation that ran from `s` to `s1` is abandoned if `rst` = 1 in one of its cycles: what it drove and raised
before that cycle stays in the histories (70_reset_and_hazards.md R340, R343; entry 19). DESIGN CHOICE (entry 19): its cycles
are those before its end cycle (t_end, t_next), so that a reset in the end cycle itself, in which it decides, leaves it its
result. -/
def cutByReset (s s1 : State) : State :=
  let n := s1.cycle - s.cycle
  match untilReset (s.inputs.take n) with
  | none => s1
  | some k =>
    resetCycle { s with
      cycle := s.cycle + k
      inputs := s.inputs.drop k
      drvTrace := s1.drvTrace.drop (n - k)
      events := s1.events.filter (fun e => decide (e.cycle < s.cycle + k)) }

/-! ### Calls -/

/-- What the present cycle runs: nothing but the agents, one operation of the block's own, or calls of HOST. -/
inductive Fetch where
  | idle
  | block (c : Call) (rest : List Call)
  | host (cs : List Call) (rest : List Call)
deriving DecidableEq, Repr

/-- A call of HOST that is due. -/
def State.hostDue (s : State) (c : Call) : Bool := decide (c.due ≤ s.cycle) && decide (c.issuer = .host)

/-- No call of HOST that waits would count a cycle or return in this cycle (45_host_ops.md R256, R259). -/
def State.hostStill (s : State) : Bool := s.subWait.isNone && (!s.retWait || s.inq.isEmpty)

/-- No agent has anything to do in this cycle: no backoff, transmission, reading, reception, trigger or probe, nothing for
ARB to serve, and no call of HOST that would move. -/
def State.still (s : State) : Bool :=
  !s.probeBusy && s.arbSubDefined && s.ring.isEmpty && !s.txHeld && s.outq.isEmpty && s.hostStill

/-- An operation of the block may run on its own from this cycle: one that takes cycles only while no agent would have to
stand still for it, so that no cycle of an operation in progress is stretched or dropped (70_reset_and_hazards.md R351,
20_memory.md R81); RX_FRAME in a trigger cycle, in which its reception freezes ARB (44_arbitration.md R216), unless a call of
HOST would have to stand still. That it waits for such a cycle is the model's (DESIGN CHOICE, entry 7). -/
def State.admits (s : State) (i : Instr) : Bool :=
  match i with
  | .sampleBit | .sampleByte | .driveBit _ | .startFrame | .sendByte _ | .sendFrame _ => s.still
  | .symSync | .symBitsync | .symBit0 | .symBit1 | .frameOnLine _ => s.still
  | .rxFrame => !s.trig || s.hostStill
  | _ => true

/-- A call of the block is issued in this cycle, or waits. -/
def State.admitsCall (s : State) (c : Call) : Bool :=
  match decode c.record with
  | .ok i => s.admits i
  | .error _ => true

/-- The calls of HOST at the head of `cs` that are due; the calls `held` stay before the rest. -/
def State.hostFetch (s : State) (held cs : List Call) : Fetch :=
  let due := cs.takeWhile s.hostDue
  if due.isEmpty then .idle else .host due (held ++ cs.drop due.length)

/-- The calls issued in the present cycle (entry 7). A call of the block that waits lets the calls of HOST behind it pass.
DESIGN CHOICE (entry 7): any call of the block that is issued, an operation of ARB or one that takes no cycle too, has the
cycle for itself, and a call of HOST behind it that is due is issued in the cycle after; calls of HOST before it are issued
first, and it comes in a later cycle. -/
def State.fetch (s : State) : Fetch :=
  match s.calls with
  | [] => .idle
  | c :: r =>
    if s.cycle < c.due then .idle
    else
      match c.issuer with
      | .block => if s.admitsCall c then .block c r else s.hostFetch [c] r
      | .host => s.hostFetch [] (c :: r)

/-- The host operation a record of HOST holds; an unlisted id, an internal operation and a reserved operand hold
none (45_host_ops.md R250, 30_encoding.md R112). -/
def hostOp (c : Call) : Option Instr :=
  match decode c.record with
  | .ok i => if issuerOf i = .host then some i else none
  | .error _ => none

/-- The refusal E_BAD_OP of a record that holds no host operation: no state change (45_host_ops.md R250). Such a record counts
for no class of R263 (DESIGN CHOICE, entry 10). -/
def State.badOp (s : State) (c : Call) : State := s.reply (c.record.headD 0) (.status .eBadOp)

/-- The answers E_BAD_OP of a cycle. -/
def badOps (cs : List Call) (s : State) : State :=
  cs.foldl (fun s c => if (hostOp c).isNone then s.badOp c else s) s

/-- The operations of one class. -/
def ofClass (k : CallClass) (is : List Instr) : List Instr := is.filter (fun i => decide (classOf i = k))

/-- HOST's operations of a cycle in the order in which none reads what another has written: RETRIEVE, SUBMIT,
control (entry 9). -/
def inOrder (is : List Instr) : List Instr := ofClass .retrieve is ++ (ofClass .submit is ++ ofClass .control is)

/-- Two operations of one class in a cycle (45_host_ops.md R263; entry 10). -/
def twoOfClass (is : List Instr) : Bool :=
  decide (1 < (ofClass .retrieve is).length) || decide (1 < (ofClass .submit is).length)
  || decide (1 < (ofClass .control is).length)

/-- Operations run one after another in the same cycle. -/
def execAll : List Instr → State → Host.Outcome State Fault Refusal
  | [], s => .next s
  | i :: r, s => andThen (exec i s) (execAll r)

/-- A clock cycle in which HOST issues calls (45_host_ops.md R263, R264). DESIGN CHOICE (entry 10): two calls of one class due
in different cycles, which a call of the block has delayed into this one cycle (entry 7), end in the refusal too; and a
record that answers E_BAD_OP counts for no class, so that any number may stand in a cycle beside other calls. -/
def hostCalls (cs : List Call) (s : State) : Host.Outcome State Fault Refusal :=
  let is := cs.filterMap hostOp
  if twoOfClass is then .refused .secondOfClass
  else andThen (execAll (inOrder is) (badOps cs s)) (clockOut s)

/-- The state of ARB whose operation this is (44_arbitration.md R215). -/
def arbStateOf : Instr → Option (BitVec 3)
  | .arbWaiting => some arbWaitingCode
  | .arbListening => some arbListeningCode
  | .arbStarting => some arbStartingCode
  | .arbSending => some arbSendingCode
  | .arbReading => some arbReadingCode
  | _ => none

/-- An operation issued by the block or the model: one that runs takes the cycles it takes and nothing else moves;
the operation of ARB_STATE is ARB's step of this clock cycle, and that of another state writes nothing and leaves ARB its
own step (44_arbitration.md R215, 70_reset_and_hazards.md R351); a HOST operation is a call of this cycle (entries 7
and 22). -/
def blockOp (i : Instr) (s : State) : Host.Outcome State Fault Refusal :=
  match kindOf i with
  | .run => andThen (exec i s) (fun s1 => .next (cutByReset s s1))
  | .arb => andThen (exec i s)
      (fun s1 => clockOut s (if arbStateOf i = some s.arbState then { s1 with hostLock := true } else s1))
  | .call => andThen (exec i s) (clockOut s)

/-- A record issued by the block; one that holds no operation answers E_BAD_OP and the cycle passes. -/
def blockCall (c : Call) (s : State) : Host.Outcome State Fault Refusal :=
  match decode c.record with
  | .ok i => blockOp i s
  | .error _ => clockOut s (s.badOp c)

/-- The step by what the present cycle runs. -/
def runFetch (f : Fetch) (s : State) : Host.Outcome State Fault Refusal :=
  match f with
  | .idle => clockOut s s
  | .block c r => blockCall c { s with calls := r }
  | .host cs r => hostCalls cs { s with calls := r }

/-- A cycle's inputs without the reset. -/
def withoutRst (ins : List CycleIn) : List CycleIn :=
  match ins with
  | [] => []
  | c :: r => { c with rst := false } :: r

/-- The record of a table word: its bytes, least significant first. -/
def recordOfWord (nbits w : Nat) : List Byte := bytesOfWord ((nbits + 7) / 8) w

/-- The issuer of a record: that of its operation, and HOST for a record that holds none. -/
def recordIssuer (record : List Byte) : Issuer :=
  match decode record with
  | .ok i => issuerOf i
  | .error _ => .host

/-- The state with one record issued in the present cycle, and no other and no reset in that cycle. The very next step runs
it, from reset and in every state that admits it (`State.admits`); else it waits (entry 7). -/
def State.issue (s : State) (record : List Byte) : State :=
  { s with
    calls := ⟨s.cycle, recordIssuer record, record⟩ :: s.laterCalls
    inputs := withoutRst s.inputs }

end Sys2Proof.Machine
end

