-- ==== Sys2Proof/Machine/Step.lean ====
section
/-! DEFINITION. One step of the machine: a clock cycle, with the calls issued in it, or an operation that runs on its
own to its end (00_scope.md R11, 44_arbitration.md R215; entry 7); and where the step fetches an operation. -/

namespace Sys2Proof.Machine

/-- One step. Reset wins over everything (70_reset_and_hazards.md R340). -/
def step (s : State) : Host.Outcome State Fault Refusal :=
  if s.inputNow.rst then .next (resetCycle s) else runFetch s.fetch s

/-- The state with the operation of a table word issued in the present cycle by the issuer 30_encoding.md R120
gives it, so that the very next step runs it. -/
def State.withFetchWord (s : State) (nbits w : Nat) : State := s.issue (recordOfWord nbits w)

end Sys2Proof.Machine
end

