-- ==== Sys2Proof/Safety.lean ====
section
/-! DEFINITION. The terms statements use: the bytes of the storage buffers, what an operation drove, line traces as
runs, the invariants of the machine, and a run of it. -/

namespace Sys2Proof.Machine

/-! ### Storage, one byte at a time -/

/-- The four storage buffers (20_memory.md R71). -/
inductive Store where
  | rxBuf
  | txFrame
  | rdFrame
  | diagBuf
deriving DecidableEq, Repr

/-- Byte `i` of a storage buffer. -/
def State.byte (s : State) (b : Store) (i : Nat) : Byte :=
  match b with
  | .rxBuf => s.rxBuf.read i
  | .txFrame => s.txFrame.read i
  | .rdFrame => s.rdFrame.read i
  | .diagBuf => s.diagBuf.read i

/-! ### What was driven -/

/-- DRV_LOW in cycle `s.cycle + k`, for an operation that ran from `s` to `t` (10_state.md R49). -/
def drivenAt (s t : State) (k : Nat) : Option Bool := ((t.drvTrace.take (t.cycle - s.cycle)).reverse)[k]?

/-- No byte of storage differs. -/
def SameStorage (s t : State) : Prop := ∀ b i, t.byte b i = s.byte b i

/-- `t` is `s` some cycles later: LINE_PREV, the cycle, the inputs used up, the history of DRV_LOW and the replies may
differ; every other register, flag, FIFO and event, and every byte of storage, is the same. -/
def OnlyTimePassed (s t : State) : Prop :=
  t = { s with
    linePrev := t.linePrev
    cycle := t.cycle
    inputs := t.inputs
    drvTrace := t.drvTrace
    replies := t.replies } ∧ SameStorage s t

/-- `t` is `s` some cycles later with DRV_LOW written as well, and left released. -/
def OnlyLineDriven (s t : State) : Prop :=
  t = { s with
    drvLow := false
    linePrev := t.linePrev
    cycle := t.cycle
    inputs := t.inputs
    drvTrace := t.drvTrace
    replies := t.replies } ∧ SameStorage s t

/-! ### Line traces -/

/-- From cycle `t` on the line is at each level for as many cycles as the runs say (30_encoding.md R129). -/
def follows (tr : Nat → Bool) : Nat → List (Bool × Nat) → Prop
  | _, [] => True
  | t, (lvl, n) :: r => (∀ k, k < n → tr (t + k) = lvl) ∧ follows tr (t + n) r

/-- From cycle `t` on the line is high exactly where the values of DRV_LOW of one sender release it. -/
def carries (tr : Nat → Bool) (t : Nat) (w : List Bool) : Prop :=
  ∀ k d, w[k]? = some d → tr (t + k) = !d

/-- The bits of value 1 among the last `k` of a byte. -/
def onesIn (b : Byte) : Nat → Nat
  | 0 => 0
  | k + 1 => (if b.getLsbD k then 1 else 0) + onesIn b k

/-- The bits of value 1 of a byte sequence, w of 30_encoding.md R105. -/
def ones (b : List Byte) : Nat := (b.map (fun x => onesIn x 8)).sum

/-- The bits of value 0 of a byte sequence, z of 30_encoding.md R105. -/
def zeros (b : List Byte) : Nat := 8 * b.length - ones b

/-- The bits of a byte sequence as they are sent: bytes in increasing index, bit 7 of each first
(30_encoding.md R105, R110). -/
def bitsOf (b : List Byte) : List Bool :=
  b.flatMap (fun x => [x.getLsbD 7, x.getLsbD 6, x.getLsbD 5, x.getLsbD 4, x.getLsbD 3, x.getLsbD 2, x.getLsbD 1,
    x.getLsbD 0])

/-- The cycles from the first cell's first cycle to the first cycle of cell `k` (30_encoding.md R104, R105). -/
def cellBegin (p : Timing) (bits : List Bool) (k : Nat) : Nat :=
  ((bits.take k).map (fun v => p.cellHigh v + Config.guardCyc)).sum

/-- The cycles the cells of a frame take: z * (DELTA + 150) + w * (2 * DELTA + 150) (30_encoding.md R105). -/
def cellsLength (p : Timing) (b : List Byte) : Nat :=
  zeros b * (p.delta + Config.guardCyc) + ones b * (2 * p.delta + Config.guardCyc)

/-- The runs of bit cells on the line, each cell a high width and the low width after it (30_encoding.md R104). -/
def cellRuns (cs : List (Nat × Nat)) : List (Bool × Nat) := cs.flatMap (fun c => [(true, c.1), (false, c.2)])

/-- The cycles these cells take. -/
def cellCycles (cs : List (Nat × Nat)) : Nat := (cs.map (fun c => c.1 + c.2)).sum

/-- The bits a receiver reads from cells, by their high widths (40_bit_codec.md R142, R143). -/
def cellBits (p : Timing) (cs : List (Nat × Nat)) : List Bool := cs.map (fun c => p.classify c.1)

/-- The number that bits stand for, the first one the most significant (30_encoding.md R110). -/
def bitsValue (bs : List Bool) : Nat := bs.foldl (fun n b => 2 * n + b.toNat) 0

/-- A frame that begins with these bits has a further one: the tag byte is not complete, or the length it gives is not
reached (42_reception.md R186). -/
def frameGoesOn (bs : List Bool) : Prop :=
  bs.length < 8 ∨ bs.length < 8 * (if bitsValue (bs.take 8) = 0 then 12 else bitsValue (bs.take 8))

/-- The latched profile is one the constraints of 00_scope.md R7 allow, as INIT latches it. -/
abbrev Timing.legal (p : Timing) : Prop :=
  15 ≤ p.delta ∧ 0 < p.tol ∧ 2 * p.tol < p.delta ∧ p.wmin = p.delta - p.tol ∧ p.wmax = p.delta + p.tol

/-! ### Invariants -/

/-- The four buffers are in canonical form, every index below 255 (20_memory.md R71). -/
abbrev State.storageOk (s : State) : Prop :=
  s.rxBuf.wf = true ∧ s.txFrame.wf = true ∧ s.rdFrame.wf = true ∧ s.diagBuf.wf = true

/-- No FIFO holds more than its capacity (10_state.md R36, R37, 20_memory.md R76). -/
abbrev State.fifosOk (s : State) : Prop :=
  ringUsed s.ring ≤ s.params.ringBytes ∧ s.inq.length ≤ s.params.inqDepth ∧ s.outq.length ≤ s.params.outqDepth

/-- One writer of the line at a time, and who excludes whom (10_state.md R23, R29, R45, 44_arbitration.md R217):
the line is pulled low only in Starting and Sending or by a probe; a probe runs only with ARB in Waiting and no
reception; a reception never runs in Starting or Sending; nothing runs before INIT; an address in force is not
zero (10_state.md R26). -/
abbrev State.lineOwned (s : State) : Prop :=
  (s.drvLow = true → s.arbState = arbStartingCode ∨ s.arbState = arbSendingCode ∨ s.diagMode = true)
  ∧ (s.diagMode = true → s.cfgValid = true ∧ s.arbState = arbWaitingCode ∧ s.rxActive = false)
  ∧ (s.rxActive = true → s.cfgValid = true ∧ s.arbState ≠ arbStartingCode ∧ s.arbState ≠ arbSendingCode)
  ∧ (s.cfgValid = false → s.arbState = arbWaitingCode)
  ∧ (s.cfgValid = true → s.modeAddr ≠ 0)

/-- DIAG_PHASE holds a value its probe has (10_state.md R48; entry 15). -/
def probePhases : Probe → List (BitVec 4)
  | .elec => [1, 2]
  | .timing => [1, 2, 3, 4, 5, 6, 7, 8]
  | .yield => [1, 2, 3, 4, 5, 6, 7, 9, 10, 11, 12, 13]

/-- Every state register holds a value that some rule gives it (10_state.md R32, R39, R40,
93_implementation_defined.md U7). -/
abbrev State.codesLegal (s : State) : Prop :=
  s.arbState.toNat ≤ 4
  ∧ s.arbSubDefined = true
  ∧ (s.rxActive = true → 1 ≤ s.rxPhase.toNat ∧ s.rxPhase.toNat ≤ 5)
  ∧ (s.diagMode = true → ∃ p, s.diagOp = some p ∧ s.diagPhase ∈ probePhases p)

/-- Every element of a FIFO, and a frame that waits for room, has 1 to 255 bytes (10_state.md R36, R37). -/
abbrev State.elementsOk (s : State) : Prop :=
  (∀ x ∈ s.ring, 1 ≤ x.length ∧ x.length ≤ Config.maxFrame)
  ∧ (∀ x ∈ s.inq, 1 ≤ x.length ∧ x.length ≤ Config.maxFrame)
  ∧ (∀ x ∈ s.outq, 1 ≤ x.length ∧ x.length ≤ Config.maxFrame)
  ∧ (∀ w, s.subWait = some w → 1 ≤ w.frame.length ∧ w.frame.length ≤ Config.maxFrame)

/-- Every buffer access to come has an index the buffer has, and Reading has a capture to pop or one popped
(20_memory.md R71, 44_arbitration.md R234). -/
abbrev State.indicesOk (s : State) : Prop :=
  (s.rxActive = true → s.rxByteidx ≠ 255)
  ∧ (s.rxActive = true → s.rxByteidx ≠ 0 → s.rxLen ≠ 0)
  ∧ s.txByteidx ≠ 255
  ∧ (s.diagMode = true → s.diagOp = some .timing → s.diagPhase.toNat ≤ 6 → s.diagIdx ≠ 255)
  ∧ (s.arbState = arbReadingCode → s.arbSub = 0 → s.ring ≠ [])
  ∧ (s.arbState = arbReadingCode → s.arbSub = 1 → s.rdLen ≠ 0)

/-- The invariant of a machine that started from reset. -/
abbrev State.safe (s : State) : Prop :=
  s.storageOk ∧ s.fifosOk ∧ s.lineOwned ∧ s.codesLegal ∧ s.elementsOk ∧ s.indicesOk

/-- No input of the coming cycles is one that no ideal line gives (93_implementation_defined.md U12). -/
abbrev State.idealLine (s : State) : Prop := ∀ c ∈ s.inputs, c.line ≠ .lags

/-- In the present cycle nothing is asked of the block from outside: no reset, no call due, no call waiting. -/
abbrev State.undisturbed (s : State) : Prop :=
  s.inputNow.rst = false ∧ s.calls = [] ∧ s.subWait = none ∧ s.retWait = false ∧ s.hostLock = false

/-! ### Runs -/

/-- One clock cycle later, with no agent and no call having written anything: LINE_PREV has followed the line
(10_state.md R30). -/
def State.elapsed (s : State) : State :=
  { s with
    linePrev := s.line
    cycle := s.cycle + 1
    inputs := s.inputs.tail
    drvTrace := s.drvLow :: s.drvTrace }

/-- `n` steps, if none of them stops. -/
def stepN : Nat → State → Option State
  | 0, s => some s
  | n + 1, s =>
    match step s with
    | .next t => stepN n t
    | .fault _ => none
    | .refused _ => none

end Sys2Proof.Machine
end

