-- ==== Sys2Proof/Certificates/Slice0/Obligations.lean ====
section
/-! DEFINITION. The statements for the provers. Cycle numbers are those of the state's own clock; an operation starts in
the state's present cycle (00_scope.md R17). -/

open Sys2Proof Sys2Proof.Machine

/-! ### Encoding -/

/-- Decoding an encoded well-formed operation gives it back, whatever bytes stand after it. The ids are 30_encoding.md
R120's, the operand kinds R121's; the operand records are the model's (DESIGN CHOICE, entries 5 and 6). -/
def Obligations.DecodeInvertsEncode : Prop :=
  ∀ (i : Instr) (rest : List Byte), i.wellFormed = true → decode (encode i ++ rest) = .ok i

/-- Table words written out from the ids of 30_encoding.md R120 and the model's operand records (DESIGN CHOICE, entries
5 and 6) decode to the operations they stand for. -/
def Obligations.WordsDecodeToTheirOperations : Prop :=
  decodeTableWord 8 0x01 = some .sampleBit
  ∧ decodeTableWord 16 0x0103 = some (.driveBit true)
  ∧ decodeTableWord 16 0x0510 = some (.decodeHeader 5)
  ∧ decodeTableWord 8 0x20 = some .rxFrame
  ∧ decodeTableWord 16 0x8029 = some (.sendByte 0x80)
  ∧ decodeTableWord 8 0x32 = some .arbStarting
  ∧ decodeTableWord 24 0x0D0A40 = some (.init ⟨0x0A, true, false, 3⟩)
  ∧ decodeTableWord 8 0x51 = some .diagTiming
  ∧ decodeTableWord 40 0x0000009653 = some (.inferGrade 150)
  ∧ decodeTableWord 32 0x00200380 = some (.frameGeneric 3 [0x20, 0x00])
  ∧ decodeTableWord 8 0x83 = some .symBit0
  ∧ decodeTableWord 8 0x44 = none

/-- When the record of a call issued in the present cycle decodes to a well-formed operation, the step is that
operation's meaning in this state, with the clock cycle of the agents around it where it is a call or ARB's step, and
with the cut by reset where it runs on its own. An operation that runs on its own waits while an agent or a waiting call
would have to stand still for it, and the cycle is the agents' own; so is it under an ARB operation of another state than
ARB_STATE: nothing is stretched. How calls are issued and wait is the model's (DESIGN CHOICE, entry 7), as is the cut
(entry 19). -/
def Obligations.StepRunsTheDecodedOperation : Prop :=
  ∀ (s : State) (c : Call) (rest : List Call) (i : Instr),
    s.inputNow.rst = false → s.calls = c :: rest → c.due ≤ s.cycle → decode c.record = .ok i → i.wellFormed = true →
    (c.issuer = .block → kindOf i = .run → s.admits i = true →
      step s = andThen (exec i { s with calls := rest }) (fun t => .next (cutByReset { s with calls := rest } t)))
    ∧ (c.issuer = .block → s.admits i = false → (∀ d, rest.head? = some d → s.cycle < d.due ∨ d.issuer = .block) →
      step s = clockOut s s)
    ∧ (c.issuer = .block → kindOf i = .arb → arbStateOf i = some s.arbState →
      step s = andThen (exec i { s with calls := rest })
        (fun t => clockOut { s with calls := rest } { t with hostLock := true }))
    ∧ (c.issuer = .block → kindOf i = .arb → arbStateOf i ≠ some s.arbState →
      step s = clockOut { s with calls := rest } { s with calls := rest })
    ∧ (c.issuer = .block → kindOf i = .call →
      step s = andThen (exec i { s with calls := rest }) (clockOut { s with calls := rest }))
    ∧ (c.issuer = .host → issuerOf i = .host → (∀ d, rest.head? = some d → s.cycle < d.due ∨ d.issuer = .block) →
      step s = andThen (exec i { s with calls := rest }) (clockOut { s with calls := rest }))

/-- A record issued by HOST whose first byte is not the id of an operation that 30_encoding.md R120 marks HOST answers
E_BAD_OP in its cycle and changes no state (45_host_ops.md R250): the cycle is the agents' own. -/
def Obligations.UnlistedAndInternalIdsAreRefused : Prop :=
  ∀ (s : State) (due : Nat) (id : Byte) (r : List Byte),
    s.inputNow.rst = false → s.calls = [⟨due, .host, id :: r⟩] → due ≤ s.cycle →
    id ∉ [0x13, 0x40, 0x41, 0x42, 0x43, 0x50, 0x51, 0x52] →
    step s = clockOut { s with calls := [] }
      { s with calls := [], replies := ⟨s.cycle, id, .status .eBadOp⟩ :: s.replies }

/-! ### Reset and the invariant -/

/-- The reset values of 10_state.md R50 and 70_reset_and_hazards.md R341, whatever the parameters. -/
def Obligations.ResetGivesTheListedValues : Prop :=
  ∀ p : Config.Params, ∀ s : State, s = State.resetWith p →
    s.cfgValid = false ∧ s.modeAddr = 0 ∧ s.modeCtrl = false ∧ s.modeRdpol = false ∧ s.modeGrade = 0
    ∧ s.tpDelta = 0 ∧ s.tpTol = 0 ∧ s.tpWmin = 0 ∧ s.tpWmax = 0 ∧ s.tpSkew = 0
    ∧ s.drvLow = false ∧ s.linePrev = true
    ∧ s.rxActive = false ∧ s.rxPhase = 0 ∧ s.rxCnt = 0 ∧ s.rxShift = 0 ∧ s.rxBitidx = 0 ∧ s.rxByteidx = 0 ∧ s.rxLen = 0
    ∧ s.notify = false ∧ s.ring = [] ∧ s.inq = [] ∧ s.outq = []
    ∧ s.arbState = arbWaitingCode ∧ s.arbSub = 0 ∧ s.arbCnt = 0
    ∧ s.txHeld = false ∧ s.txLen = 0 ∧ s.txByteidx = 0 ∧ s.txBitidx = 0 ∧ s.rdLen = 0
    ∧ s.statInvariant = false ∧ s.diagMode = false
    ∧ s.dsSync = 0 ∧ s.dsBsh = 0 ∧ s.dsBsl = 0 ∧ s.dsBit0 = 0 ∧ s.dsBit1 = 0
    ∧ s.diagGrade = 0 ∧ s.diagViol = 0 ∧ s.deFall = 0 ∧ s.deRise = 0 ∧ s.dePeriod = 0 ∧ s.deStatus = false
    ∧ s.diagYield = 0
    ∧ s.diagPhase = 0 ∧ s.diagCnt = 0 ∧ s.diagTmr = 0 ∧ s.diagIdx = 0 ∧ s.diagBit = 0

/-- The invariant `State.safe` holds right after reset, whatever the parameters. -/
def Obligations.ResetIsSafe : Prop := (∀ p : Config.Params, (State.resetWith p).safe) ∧ State.reset.safe

/-- Every step keeps the invariant: canonical buffers, bounded FIFOs, one owner of the line, legal state codes, element
lengths, and indices inside the buffers. -/
def Obligations.StepKeepsTheInvariant : Prop := ∀ s t : State, s.safe → step s = .next t → t.safe

/-- Under the invariant no step stops with a fault, and no step sets STAT_INVARIANT: no rule writes an unreachable value
(44_arbitration.md R237). -/
def Obligations.SafeStatesNeverStopOrFlag : Prop :=
  (∀ (s : State) (f : Fault), s.safe → step s ≠ .fault f)
  ∧ (∀ s t : State, s.safe → step s = .next t → t.statInvariant = true → s.statInvariant = true)

/-- In a cycle with `rst` = 1 every register takes its reset value, the FIFOs are empty, the line is released and every
waiting call is gone, whatever was under way and whatever is issued; and without a reset no step clears CFG_VALID
(70_reset_and_hazards.md R340). The values that R341 leaves open are the model's (DESIGN CHOICE, entry 8), as is what the
histories keep (entry 19). -/
def Obligations.ResetWinsOverEverything : Prop :=
  (∀ s t : State, (∀ c ∈ s.inputs, c.rst = false) → step s = .next t → s.cfgValid = true → t.cfgValid = true)
  ∧ ∀ s : State, s.inputNow.rst = true →
    step s = .next { State.resetWith s.params with
      cycle := s.cycle + 1
      inputs := s.inputs.tail
      calls := s.calls.filter (fun c => decide (s.cycle < c.due))
      drvTrace := false :: s.drvTrace
      events := s.events
      replies := s.replies }

/-- LINE_PREV(t + 1) = line_in(t) in every cycle, whatever else the block is doing (10_state.md R30): after any step
that took at least one cycle it is the level of the last cycle, at what DRV_LOW was in it. -/
def Obligations.LinePrevFollowsTheLine : Prop :=
  ∀ s t : State, (∀ c ∈ s.inputs, c.rst = false) → step s = .next t → s.cycle < t.cycle →
    t.linePrev = (s.inputAt (t.cycle - 1)).line.level (t.drvTrace.headD s.drvLow)

/-! ### Bit codec -/

/-- SAMPLE_BIT on a low phase of `n` and a high phase of `h` cycles, each within its bound, answers the bit: 0 when
`h` is at most TP_WMAX, else 1, and ends at the fall (40_bit_codec.md R141 to R143). Nothing but time passes: that RX_CNT
and DIAG_CNT, a caller's counters, stay as they are when it runs on its own is the model's (DESIGN CHOICE, entry 26). -/
def Obligations.SampleBitClassifiesByWidth : Prop :=
  ∀ (s : State) (n h : Nat),
    n ≤ 10 * s.tpDelta.toNat → 1 ≤ h → h ≤ 25 * s.tpDelta.toNat →
    follows s.lineAt s.cycle [(false, n), (true, h), (false, 1)] →
    ∃ t, exec .sampleBit s = .next t
      ∧ t.replies = ⟨s.cycle + n + h, 0x01, .sampledBit (.bit (decide (s.tpWmax.toNat < h))) h (s.cycle + n + h)⟩
          :: s.replies
      ∧ t.cycle = s.cycle + n + h
      ∧ t.drvTrace = List.replicate (n + h) s.drvLow ++ s.drvTrace
      ∧ OnlyTimePassed s t

/-- SAMPLE_BIT always ends, with one reply, and answers a fault exactly when the line is stuck: LOW_STUCK when it is low
in all of the LOW_TMO + 1 cycles from the start, then LOW_TMO cycles after it with high width 0; HIGH_STUCK when, after at
most LOW_TMO low cycles, it is high in HIGH_TMO + 1 cycles, then HIGH_TMO cycles after the first high one with high width
HIGH_TMO (40_bit_codec.md R141, R144, R145). That RX_CNT and DIAG_CNT stay as they are when it runs on its own is the model's
(DESIGN CHOICE, entry 26). -/
def Obligations.SampleBitFaultsExactlyWhenStuck : Prop :=
  ∀ s : State, ∃ t r h, exec .sampleBit s = .next t
    ∧ t.replies = ⟨t.cycle, 0x01, .sampledBit r h t.cycle⟩ :: s.replies
    ∧ OnlyTimePassed s t
    ∧ (r = .fault .lowStuck ↔ ∀ k, k ≤ 10 * s.tpDelta.toNat → s.lineAt (s.cycle + k) = false)
    ∧ (r = .fault .lowStuck → t.cycle = s.cycle + 10 * s.tpDelta.toNat ∧ h = 0)
    ∧ (r = .fault .highStuck ↔ ∃ n, n ≤ 10 * s.tpDelta.toNat ∧ (∀ k, k < n → s.lineAt (s.cycle + k) = false)
        ∧ ∀ k, k ≤ 25 * s.tpDelta.toNat → s.lineAt (s.cycle + n + k) = true)
    ∧ (∀ n, (∀ k, k < n → s.lineAt (s.cycle + k) = false) → s.lineAt (s.cycle + n) = true → r = .fault .highStuck →
        t.cycle = s.cycle + n + 25 * s.tpDelta.toNat ∧ h = 25 * s.tpDelta.toNat)

/-- SAMPLE_BYTE on eight cells within their bounds assembles the byte most significant bit first, each bit by its own
width, and ends at the last fall. It always ends with one reply. After fewer than eight such cells a low or a high phase
that never ends makes it answer that fault in its bound cycle, with no byte: the remaining calls are not made; so it does
when SAMPLE_BIT from the same start faults (40_bit_codec.md R144 to R146, 30_encoding.md R110). `cs` lists the low and the
high width of each cell; a low phase may be empty only before the first bit. That RX_CNT and DIAG_CNT stay as they are when it
runs on its own is the model's (DESIGN CHOICE, entry 26). -/
def Obligations.SampleByteAssemblesEightBits : Prop :=
  (∀ (s : State) (cs : List (Nat × Nat)),
    cs.length = 8 →
    (∀ c ∈ cs, c.1 ≤ 10 * s.tpDelta.toNat ∧ 1 ≤ c.2 ∧ c.2 ≤ 25 * s.tpDelta.toNat) →
    (∀ c ∈ cs.tail, 1 ≤ c.1) →
    follows s.lineAt s.cycle (cs.flatMap (fun c => [(false, c.1), (true, c.2)]) ++ [(false, 1)]) →
    ∃ t b, exec .sampleByte s = .next t
      ∧ t.cycle = s.cycle + (cs.map (fun c => c.1 + c.2)).sum
      ∧ t.replies = ⟨t.cycle, 0x02, .sampledByte (.byte b) t.cycle⟩ :: s.replies
      ∧ (∀ i, (h : i < cs.length) → b.getLsbD (7 - i) = decide (s.tpWmax.toNat < (cs[i]).2))
      ∧ OnlyTimePassed s t)
  ∧ (∀ (s : State) (cs : List (Nat × Nat)) (l : Nat),
    cs.length < 8 →
    (∀ c ∈ cs, c.1 ≤ 10 * s.tpDelta.toNat ∧ 1 ≤ c.2 ∧ c.2 ≤ 25 * s.tpDelta.toNat) →
    (∀ c ∈ cs.tail, 1 ≤ c.1) →
    let runs := cs.flatMap (fun c => [(false, c.1), (true, c.2)])
    let faults := fun f (tEnd : Nat) => ∃ t, exec .sampleByte s = .next t ∧ t.cycle = tEnd
      ∧ t.replies = ⟨tEnd, 0x02, .sampledByte (.fault f) tEnd⟩ :: s.replies ∧ OnlyTimePassed s t
    (follows s.lineAt s.cycle (runs ++ [(false, 10 * s.tpDelta.toNat + 1)]) →
      faults .lowStuck (s.cycle + cellCycles cs + 10 * s.tpDelta.toNat))
    ∧ (l ≤ 10 * s.tpDelta.toNat → (cs ≠ [] → 1 ≤ l) →
      follows s.lineAt s.cycle (runs ++ [(false, l), (true, 25 * s.tpDelta.toNat + 1)]) →
      faults .highStuck (s.cycle + cellCycles cs + l + 25 * s.tpDelta.toNat)))
  ∧ (∀ s : State, ∃ t r, exec .sampleByte s = .next t
    ∧ t.replies = ⟨t.cycle, 0x02, .sampledByte r t.cycle⟩ :: s.replies
    ∧ OnlyTimePassed s t
    ∧ ∀ u f h e, exec .sampleBit s = .next u → u.replies = ⟨e, 0x01, .sampledBit (.fault f) h e⟩ :: s.replies →
        r = .fault f ∧ t.cycle = e)

/-- DRIVE_BIT with check 1 high drives the whole cell: released for H cycles, low for 150, released, and its collision
flag is check 2 (40_bit_codec.md R147, R149). With check 1 low it returns at H having pulled nothing low (R148). That it
runs whoever owns the line, and reads check 1 in the present cycle when TP_DELTA = 0, is the model's (DESIGN CHOICE, entry
29). -/
def Obligations.DriveBitMakesOneCell : Prop :=
  ∀ (s : State) (v : Bool) (H : Nat), H = (if v then 2 * s.tpDelta.toNat else s.tpDelta.toNat) →
    ∃ t, exec (.driveBit v) s = .next t ∧ OnlyLineDriven s t
      ∧ (s.releasedAt (s.cycle + H - 1) = true →
          t.cycle = s.cycle + H + 150
          ∧ (∀ k, k < H → drivenAt s t k = some false)
          ∧ (∀ k, H ≤ k → k < H + 150 → drivenAt s t k = some true)
          ∧ t.replies = ⟨t.cycle, 0x03, .driven (!s.releasedAt (s.cycle + H + 150)) t.cycle⟩ :: s.replies)
      ∧ (s.releasedAt (s.cycle + H - 1) = false →
          t.cycle = s.cycle + H
          ∧ (∀ k, k < H → drivenAt s t k = some false)
          ∧ t.replies = ⟨t.cycle, 0x03, .driven true t.cycle⟩ :: s.replies)

/-- The dominant bit: of two devices that start a cell in the same cycle with the same DELTA of at most 150 on the ideal
line, P sending 0 and Q sending 1, Q finds a collision at check 1 and never pulls low, and P finds none and drives its
whole cell (40_bit_codec.md R152). That it runs whoever owns the line is the model's (DESIGN CHOICE, entry 29). -/
def Obligations.DominantBitWins : Prop :=
  ∀ (sP sQ tP tQ : State),
    sP.cycle = sQ.cycle → sP.tpDelta = sQ.tpDelta → 0 < sP.tpDelta.toNat → sP.tpDelta.toNat ≤ 150 →
    exec (.driveBit false) sP = .next tP → exec (.driveBit true) sQ = .next tQ →
    (∀ k, sP.releasedAt (sP.cycle + k) = !(drivenAt sQ tQ k == some true)) →
    (∀ k, sQ.releasedAt (sQ.cycle + k) = !(drivenAt sP tP k == some true)) →
    tP.replies = ⟨tP.cycle, 0x03, .driven false (sP.cycle + sP.tpDelta.toNat + 150)⟩ :: sP.replies
    ∧ tQ.replies = ⟨tQ.cycle, 0x03, .driven true (sQ.cycle + 2 * sQ.tpDelta.toNat)⟩ :: sQ.replies
    ∧ (∀ k, drivenAt sQ tQ k ≠ some true)
    ∧ (∀ k, sP.tpDelta.toNat ≤ k → k < sP.tpDelta.toNat + 150 → drivenAt sP tP k = some true)

/-! ### Frame format -/

/-- DECODE_HEADER gives 12 for the tag 0 and T for any other tag T, and writes nothing but its reply
(41_frame_format.md R161). -/
def Obligations.HeaderGivesTheFrameLength : Prop :=
  ∀ (t : Byte) (s : State),
    exec (.decodeHeader t) s =
      .next { s with replies := ⟨s.cycle, 0x10, .frameLen (if t.toNat = 0 then 12 else t.toNat)⟩ :: s.replies }

/-- SERIALIZE and DESERIALIZE undo each other on well-formed frames and on sequences that have their tag's length, and
write nothing but their replies (41_frame_format.md R164). -/
def Obligations.FramesRoundTrip : Prop :=
  (∀ (F : Frame) (s : State), F.wellFormed = true → ∃ b,
    exec (.serialize F) s = .next { s with replies := ⟨s.cycle, 0x11, .serialized b⟩ :: s.replies }
    ∧ isFrameBytes b = true
    ∧ exec (.deserialize b) s = .next { s with replies := ⟨s.cycle, 0x12, .deserialized (some F)⟩ :: s.replies })
  ∧ (∀ (b : List Byte) (s : State), isFrameBytes b = true → ∃ F,
    exec (.deserialize b) s = .next { s with replies := ⟨s.cycle, 0x12, .deserialized (some F)⟩ :: s.replies }
    ∧ F.wellFormed = true
    ∧ exec (.serialize F) s = .next { s with replies := ⟨s.cycle, 0x11, .serialized b⟩ :: s.replies })

/-- SERIALIZE runs on every Frame value, well formed or not: the fields in order, one byte each, nothing computed.
DESERIALIZE chooses the shape by byte 0 alone and answers Malformed exactly when the length does not fit the tag
(41_frame_format.md R162, R163). -/
def Obligations.SerializeCopiesDeserializeChecks : Prop :=
  ∀ s : State,
    (∀ soh src dst opc d0 d1 d2 d3 d4 d5 pad chk : Byte,
      exec (.serialize (.structured ⟨soh, src, dst, opc, ⟨d0, d1, d2, d3, d4, d5⟩, pad, chk⟩)) s =
        .next { s with replies :=
          ⟨s.cycle, 0x11, .serialized [soh, src, dst, opc, d0, d1, d2, d3, d4, d5, pad, chk]⟩ :: s.replies })
    ∧ (∀ (len : Byte) (body : List Byte),
      exec (.serialize (.generic len body)) s =
        .next { s with replies := ⟨s.cycle, 0x11, .serialized (len :: body)⟩ :: s.replies })
    ∧ (∀ src dst opc d0 d1 d2 d3 d4 d5 pad chk : Byte,
      exec (.deserialize [0, src, dst, opc, d0, d1, d2, d3, d4, d5, pad, chk]) s =
        .next { s with replies := ⟨s.cycle, 0x12, .deserialized
          (some (.structured ⟨0, src, dst, opc, ⟨d0, d1, d2, d3, d4, d5⟩, pad, chk⟩))⟩ :: s.replies })
    ∧ (∀ (x : Byte) (r : List Byte), x ≠ 0 → r.length + 1 = x.toNat →
      exec (.deserialize (x :: r)) s =
        .next { s with replies := ⟨s.cycle, 0x12, .deserialized (some (.generic x r))⟩ :: s.replies })
    ∧ (∀ (x : Byte) (r : List Byte), r.length + 1 ≤ 255 → r.length + 1 ≠ (if x.toNat = 0 then 12 else x.toNat) →
      exec (.deserialize (x :: r)) s =
        .next { s with replies := ⟨s.cycle, 0x12, .deserialized none⟩ :: s.replies })

/-- VALIDATE of a structured frame makes all five checks, each with its own bit, and sets no other bit; the marker
check cannot fail here (41_frame_format.md R165, R166, 30_encoding.md R126). CHECKSUM_FN is any function. -/
def Obligations.ValidateMakesEveryStructuredCheck : Prop :=
  ∀ (src dst opc d0 d1 d2 d3 d4 d5 pad chk : Byte) (s : State), ∃ m : Mask,
    exec (.validate [0, src, dst, opc, d0, d1, d2, d3, d4, d5, pad, chk]) s =
      .next { s with replies := ⟨s.cycle, 0x13, .violations .ok (some m)⟩ :: s.replies }
    ∧ m.getLsbD 6 = false
    ∧ (m.getLsbD 7 = true ↔ src = 0)
    ∧ (m.getLsbD 8 = true ↔ dst = 0)
    ∧ (m.getLsbD 9 = true ↔ pad ≠ 0)
    ∧ (m.getLsbD 10 = true ↔ chk ≠ Config.checksumFn [0, src, dst, opc, d0, d1, d2, d3, d4, d5, pad])
    ∧ (∀ i, i < 6 ∨ 11 ≤ i → m.getLsbD i = false)

/-- VALIDATE of a generic frame answers the empty set when some byte from index 2 on is 0x00, and V_GEN_UNTERM otherwise
(41_frame_format.md R167); of a sequence whose length is not its tag's it answers E_LENGTH
(45_host_ops.md R261), and of the empty one, which has no tag, too, by the model's choice (DESIGN CHOICE, entry 30). -/
def Obligations.ValidateGenericAndWrongLengths : Prop :=
  ∀ (b : List Byte) (s : State),
    (isFrameBytes b = true → b.headD 0 ≠ 0 → (∃ i, 2 ≤ i ∧ b[i]? = some 0) →
      exec (.validate b) s = .next { s with replies := ⟨s.cycle, 0x13, .violations .ok (some 0)⟩ :: s.replies })
    ∧ (isFrameBytes b = true → b.headD 0 ≠ 0 → (∀ i, 2 ≤ i → b[i]? ≠ some 0) →
      exec (.validate b) s = .next { s with replies := ⟨s.cycle, 0x13, .violations .ok (some 0x0800)⟩ :: s.replies })
    ∧ (isFrameBytes b = false →
      exec (.validate b) s = .next { s with replies := ⟨s.cycle, 0x13, .violations .eLength none⟩ :: s.replies })

/-- The two format rows give the bytes of the format in their order and the length the tag gives (30_encoding.md R107 to
R109). That they reply with them is the model's choice (DESIGN CHOICE, entry 6). -/
def Obligations.FormatRowsGiveTheirBytes : Prop :=
  ∀ s : State,
    (∀ src dst opc d0 d1 d2 d3 d4 d5 pad chk : Byte,
      exec (.frameStructured src dst opc ⟨d0, d1, d2, d3, d4, d5⟩ pad chk) s =
        .next { s with replies :=
          ⟨s.cycle, 0x00, .frameBytes [0, src, dst, opc, d0, d1, d2, d3, d4, d5, pad, chk] 12⟩ :: s.replies })
    ∧ (∀ (len : Byte) (body : List Byte), body.length + 1 = len.toNat →
      exec (.frameGeneric len body) s =
        .next { s with replies := ⟨s.cycle, 0x80, .frameBytes (len :: body) (body.length + 1)⟩ :: s.replies })

/-! ### Reception -/

/-- Entry: in the trigger cycle the receiver takes the edge, ARB makes no step and nothing else changes; in a cycle that
is no trigger no reception starts, neither in the clock cycle nor by RX_FRAME; and there is no trigger in Starting or
Sending (60_exceptions.md R318, 42_reception.md R180, 44_arbitration.md R216). That RX_CNT counts from 1 is the model's (DESIGN
CHOICE, entry 32), as is what RX_FRAME answers in a cycle that is no trigger (DESIGN CHOICE, entry 31). -/
def Obligations.FallingEdgeIsTaken : Prop :=
  (∀ s : State, s.undisturbed → s.trig = true →
    step s = .next { s with
      rxActive := true
      rxPhase := 1
      rxCnt := 1
      rxByteidx := 0
      rxBitidx := 0
      linePrev := false
      cycle := s.cycle + 1
      inputs := s.inputs.tail
      drvTrace := s.drvLow :: s.drvTrace })
  ∧ (∀ s : State, s.trig = false →
    exec .rxFrame s = .next { s with replies := ⟨s.cycle, 0x20, .notTriggered⟩ :: s.replies })
  ∧ (∀ s t : State, s.undisturbed → s.rxActive = false → s.trig = false → step s = .next t → t.rxActive = false)
  ∧ (∀ s : State, s.trig = true ↔ s.cfgValid = true ∧ s.rxActive = false ∧ s.diagMode = false
      ∧ s.arbState ≠ arbStartingCode ∧ s.arbState ≠ arbSendingCode ∧ s.linePrev = true ∧ s.line = false)

/-- Every reception ends, within 71445 * DELTA cycles of its trigger, with NOTIFY set, the receiver armed, and the line
never driven. With `o` what the trace gives, RX_BYTEIDX is the number of bytes sampled, RX_BUF holds them from index 0 on
and is unchanged behind them, no other storage changes, and at most these bytes are added to RING, when the capture is
complete (42_reception.md R188, R189, R191, R192). That the bytes behind them are unchanged is the model's (DESIGN CHOICE,
entry 8), and so is that RX_SHIFT stays as it was (DESIGN CHOICE, entry 18).
The meaning ends in the cycle after t_end, in which its writes are visible (DEDUCED, entry 18). -/
def Obligations.EveryReceptionEnds : Prop :=
  ∀ s : State, s.trig = true →
    let o := rxFrameAt s.lineAt s.timing s.cycle
    ∃ t, exec .rxFrame s = .next t ∧ t.cycle = o.tEnd + 1
    ∧ t.rxByteidx.toNat = o.bytes.length
    ∧ (s.rxBuf.wf = true → ∀ i, (h : i < o.bytes.length) → t.byte .rxBuf i = o.bytes[i])
    ∧ t.notify = true ∧ t.rxActive = false ∧ t.rxPhase = 0 ∧ t.rxArm = true
    ∧ s.cycle < t.cycle ∧ t.cycle ≤ s.cycle + 71445 * s.tpDelta.toNat + 1
    ∧ (t.ring = s.ring
      ∨ o.outcome = .complete ∧ t.ring = s.ring ++ [o.bytes] ∧ ringUsed t.ring ≤ s.params.ringBytes)
    ∧ (o.outcome = .complete → ringUsed (s.ring ++ [o.bytes]) ≤ s.params.ringBytes → t.ring = s.ring ++ [o.bytes])
    ∧ t = { s with
        rxActive := false
        rxPhase := 0
        rxCnt := t.rxCnt
        rxBitidx := t.rxBitidx
        rxByteidx := t.rxByteidx
        rxLen := t.rxLen
        rxBuf := t.rxBuf
        notify := true
        ring := t.ring
        linePrev := t.linePrev
        cycle := t.cycle
        inputs := t.inputs
        drvTrace := List.replicate (t.cycle - s.cycle) s.drvLow ++ s.drvTrace
        events := t.events
        replies := t.replies }
    ∧ (∀ i, t.rxByteidx.toNat ≤ i → t.byte .rxBuf i = s.byte .rxBuf i)
    ∧ (∀ b i, b ≠ .rxBuf → t.byte b i = s.byte b i)

/-- The aborts of RX_FRAME, each in its cycle: SYNC low too long, the high phase after it too short or without end, the
bit-sync low too long, and a bit that never resolves, whichever it is: after any number of bits `cs` (their high widths and
the low widths after them) that leave the frame unfinished, a high or a low phase without end (42_reception.md R182 to
R184, R187). Nothing is pushed.
The meaning ends in the cycle after t_end (DEDUCED, entry 18). -/
def Obligations.BadFramingAbortsTheReception : Prop :=
  ∀ (s : State) (n m k L : Nat), s.trig = true → L = 10 * s.tpDelta.toNat →
    let aborts := fun (e : Event) (tEnd : Nat) => ∃ t, exec .rxFrame s = .next t
      ∧ t.events = ⟨tEnd, e⟩ :: s.events ∧ t.cycle = tEnd + 1 ∧ t.ring = s.ring ∧ t.notify = true ∧ t.rxActive = false
    (follows s.lineAt s.cycle [(false, L + 1)] → aborts .rxSyncLow (s.cycle + L))
    ∧ (n ≤ L → 1 ≤ m → m < 6 * s.tpDelta.toNat → follows s.lineAt s.cycle [(false, n), (true, m), (false, 1)] →
        aborts .rxShortHigh (s.cycle + n + m))
    ∧ (n ≤ L → follows s.lineAt s.cycle [(false, n), (true, 25 * s.tpDelta.toNat + 1)] →
        aborts .rxHighTmo (s.cycle + n + 25 * s.tpDelta.toNat))
    ∧ (n ≤ L → 1 ≤ m → 6 * s.tpDelta.toNat ≤ m → m ≤ 25 * s.tpDelta.toNat →
        follows s.lineAt s.cycle [(false, n), (true, m), (false, L + 1)] → aborts .rxBsLow (s.cycle + n + m + L))
    ∧ (∀ cs : List (Nat × Nat),
        n ≤ L → 1 ≤ m → 6 * s.tpDelta.toNat ≤ m → m ≤ 25 * s.tpDelta.toNat → 1 ≤ k → k ≤ L →
        (∀ c ∈ cs, 1 ≤ c.1 ∧ c.1 ≤ 25 * s.tpDelta.toNat ∧ 1 ≤ c.2 ∧ c.2 ≤ L) →
        frameGoesOn (cellBits s.timing cs) →
        (follows s.lineAt s.cycle
            ([(false, n), (true, m), (false, k)] ++ cellRuns cs ++ [(true, 25 * s.tpDelta.toNat + 1)]) →
          aborts .rxBitFault (s.cycle + n + m + k + cellCycles cs + 25 * s.tpDelta.toNat))
        ∧ (∀ h, 1 ≤ h → h ≤ 25 * s.tpDelta.toNat → frameGoesOn (cellBits s.timing (cs ++ [(h, 1)])) →
          follows s.lineAt s.cycle
            ([(false, n), (true, m), (false, k)] ++ cellRuns cs ++ [(true, h), (false, L + 1)]) →
          aborts .rxBitFault (s.cycle + n + m + k + cellCycles cs + h + L)))

/-- The round trip on the wire: an armed receiver with a legal profile that sees a frame as a sender of the same profile
puts it on the line, with any SYNC low length of 1 to 10 * DELTA cycles, captures exactly its bytes, and pushes them to
RING when there is room and drops them otherwise (41_frame_format.md R164, 42_reception.md R181, R189, R191).
The meaning ends in the cycle after t_end (DEDUCED, entry 18). -/
def Obligations.FramesRoundTripOnTheWire : Prop :=
  ∀ (s : State) (b : List Byte) (n : Nat),
    s.trig = true → s.timing.legal → isFrameBytes b = true → 1 ≤ n → n ≤ 10 * s.tpDelta.toNat →
    carries s.lineAt s.cycle (frameWave s.timing n b) →
    ∃ t, exec .rxFrame s = .next t
      ∧ t.cycle + 149 = s.cycle + n + 16 * s.tpDelta.toNat + cellsLength s.timing b
      ∧ t.notify = true ∧ t.rxActive = false
      ∧ (ringUsed s.ring + b.length ≤ s.params.ringBytes →
          t.ring = s.ring ++ [b] ∧ t.events = ⟨t.cycle - 1, .rxPushed b⟩ :: s.events)
      ∧ (s.params.ringBytes < ringUsed s.ring + b.length →
          t.ring = s.ring ∧ t.events = ⟨t.cycle - 1, .ringFull b⟩ :: s.events)

/-- The receiver of the clock cycle and RX_FRAME agree: stepping from the trigger cycle to the end of the reception gives
the state RX_FRAME gives, but for the run counter, the shift register and the bit index, and the reply
(42_reception.md R181).
That RX_FRAME does not keep these registers is the model's choice (DESIGN CHOICE, entry 18). -/
def Obligations.ReceiverStepsMakeRxFrame : Prop :=
  ∀ s : State, s.undisturbed → (∀ c ∈ s.inputs, c.rst = false) → s.trig = true →
    s.rxBuf.wf = true → 1 ≤ s.tpDelta.toNat → 25 * s.tpDelta.toNat < 2 ^ 32 →
    ∃ t u, exec .rxFrame s = .next t ∧ stepN (t.cycle - s.cycle) s = some u
      ∧ u = { t with rxCnt := u.rxCnt, rxShift := u.rxShift, rxBitidx := u.rxBitidx, replies := s.replies }

/-! ### Transmission and line symbols -/

/-- START_FRAME drives SYNC low for SYNC_LOW_CYC cycles by role, releases for 8 * DELTA and pulls low for 8 * DELTA,
samples nothing and ends there (43_transmission.md R200 to R202). That it drives whoever owns the line is the model's (DESIGN
CHOICE, entry 29). -/
def Obligations.StartFrameDrivesThePreamble : Prop :=
  ∀ (s : State) (SL : Nat),
    SL = (if s.modeCtrl then s.params.syncLowHuCtrl else s.params.syncLowHuDev) * s.tpDelta.toNat / 2 →
    ∃ t, exec .startFrame s = .next t ∧ OnlyLineDriven s t
      ∧ t.cycle = s.cycle + SL + 16 * s.tpDelta.toNat
      ∧ (∀ k, k < SL → drivenAt s t k = some true)
      ∧ (∀ k, SL ≤ k → k < SL + 8 * s.tpDelta.toNat → drivenAt s t k = some false)
      ∧ (∀ k, SL + 8 * s.tpDelta.toNat ≤ k → k < SL + 16 * s.tpDelta.toNat → drivenAt s t k = some true)
      ∧ t.replies = ⟨t.cycle, 0x28, .started t.cycle⟩ :: s.replies

/-- SEND_BYTE with both checks of every cell high, whatever the line is between them (40_bit_codec.md R148), drives the eight
cells of the byte, bit 7 first, and finds no collision; at the first failing check it stops, released, with the collision
flag (43_transmission.md R203). It raises no event. That TX_BYTEIDX and TX_BITIDX stay as they are is the model's (DESIGN
CHOICE, entry 28). That it runs whoever owns the line, and where check 1 is read when TP_DELTA = 0, is the model's (DESIGN CHOICE, entry 29). -/
def Obligations.SendByteDrivesUpToACollision : Prop :=
  ∀ (s : State) (b : Byte),
    let start := fun j => s.cycle + cellBegin s.timing (bitsOf [b]) j
    let check1 := fun j w => s.releasedAt (start j + s.timing.cellHigh w - 1)
    let check2 := fun j => s.releasedAt (start (j + 1))
    ((∀ j w, (bitsOf [b])[j]? = some w → check1 j w = true ∧ check2 j = true) →
      ∃ t, exec (.sendByte b) s = .next t ∧ OnlyLineDriven s t
      ∧ t.cycle = s.cycle + cellsLength s.timing [b]
      ∧ t.drvTrace = ((bitsOf [b]).flatMap (cellWave s.timing)).reverse ++ s.drvTrace
      ∧ t.replies = ⟨t.cycle, 0x29, .driven false t.cycle⟩ :: s.replies)
    ∧ (∀ (k : Nat) (v : Bool), (bitsOf [b])[k]? = some v →
      (∀ j w, j < k → (bitsOf [b])[j]? = some w → check1 j w = true ∧ check2 j = true) →
      (check1 k v = false → ∃ t, exec (.sendByte b) s = .next t ∧ OnlyLineDriven s t
        ∧ t.cycle = start k + s.timing.cellHigh v
        ∧ t.drvTrace = List.replicate (s.timing.cellHigh v) false
            ++ (((bitsOf [b]).take k).flatMap (cellWave s.timing)).reverse ++ s.drvTrace
        ∧ t.replies = ⟨t.cycle, 0x29, .driven true t.cycle⟩ :: s.replies)
      ∧ (check1 k v = true → check2 k = false → ∃ t, exec (.sendByte b) s = .next t ∧ OnlyLineDriven s t
        ∧ t.cycle = start (k + 1)
        ∧ t.drvTrace = (((bitsOf [b]).take (k + 1)).flatMap (cellWave s.timing)).reverse ++ s.drvTrace
        ∧ t.replies = ⟨t.cycle, 0x29, .driven true t.cycle⟩ :: s.replies))

/-- SEND_FRAME with both checks of every cell high, whatever the line is between them (40_bit_codec.md R148), drives every
cell of the frame, takes z * (DELTA + 150) +
w * (2 * DELTA + 150) cycles, raises no event and leaves the indices at the last cell. It stops at its first failing
check: with every check of the cells before cell `k` high, a low check 1 of cell `k` ends it there with
EV_COLLISION_HIGH and no guard driven, and a low check 2 ends it after the guard with EV_COLLISION_GUARD, each with the
byte and bit index of the cell (43_transmission.md R204, R205, 60_exceptions.md R316). The values of TX_BYTEIDX and
TX_BITIDX at the end are the model's choice (DESIGN CHOICE, entry 28), as is that it runs whoever owns the line, and where
check 1 is read when TP_DELTA = 0 (DESIGN CHOICE, entry 29). -/
def Obligations.SendFrameDrivesUpToACollision : Prop :=
  (∀ (s : State) (b : List Byte), isFrameBytes b = true →
      let start := fun j => s.cycle + cellBegin s.timing (bitsOf b) j
      (∀ j w, (bitsOf b)[j]? = some w →
        s.releasedAt (start j + s.timing.cellHigh w - 1) = true ∧ s.releasedAt (start (j + 1)) = true) →
      ∃ t, exec (.sendFrame b) s = .next t
        ∧ t.cycle = s.cycle + cellsLength s.timing b
        ∧ t.drvTrace = ((bitsOf b).flatMap (cellWave s.timing)).reverse ++ s.drvTrace
        ∧ t.replies = ⟨t.cycle, 0x2A, .driven false t.cycle⟩ :: s.replies
        ∧ t.txByteidx.toNat = b.length - 1 ∧ t.txBitidx = 0
        ∧ t = { s with
            drvLow := false
            txByteidx := t.txByteidx
            txBitidx := t.txBitidx
            linePrev := t.linePrev
            cycle := t.cycle
            inputs := t.inputs
            drvTrace := t.drvTrace
            replies := t.replies }
        ∧ SameStorage s t)
  ∧ (∀ (s : State) (b : List Byte) (k : Nat) (v : Bool),
      isFrameBytes b = true → (bitsOf b)[k]? = some v →
      let start := fun j => s.cycle + cellBegin s.timing (bitsOf b) j
      let check1 := fun j w => s.releasedAt (start j + s.timing.cellHigh w - 1)
      let check2 := fun j => s.releasedAt (start (j + 1))
      let sent := fun t : State => t = { s with
          drvLow := false
          txByteidx := t.txByteidx
          txBitidx := t.txBitidx
          linePrev := t.linePrev
          cycle := t.cycle
          inputs := t.inputs
          drvTrace := t.drvTrace
          events := t.events
          replies := t.replies } ∧ SameStorage s t
      (∀ j w, j < k → (bitsOf b)[j]? = some w → check1 j w = true ∧ check2 j = true) →
      (check1 k v = false → ∃ t, exec (.sendFrame b) s = .next t
        ∧ t.cycle = start k + s.timing.cellHigh v
        ∧ sent t
        ∧ t.drvTrace = List.replicate (s.timing.cellHigh v) false
            ++ (((bitsOf b).take k).flatMap (cellWave s.timing)).reverse ++ s.drvTrace
        ∧ t.events = ⟨t.cycle - 1, .collisionHigh (k / 8) (7 - k % 8)⟩ :: s.events
        ∧ t.replies = ⟨t.cycle, 0x2A, .driven true t.cycle⟩ :: s.replies
        ∧ t.txByteidx.toNat = k / 8 ∧ t.txBitidx.toNat = 7 - k % 8)
      ∧ (check1 k v = true → check2 k = false → ∃ t, exec (.sendFrame b) s = .next t
        ∧ t.cycle = start (k + 1)
        ∧ sent t
        ∧ t.drvTrace = (((bitsOf b).take (k + 1)).flatMap (cellWave s.timing)).reverse ++ s.drvTrace
        ∧ t.events = ⟨t.cycle, .collisionGuard (k / 8) (7 - k % 8)⟩ :: s.events
        ∧ t.replies = ⟨t.cycle, 0x2A, .driven true t.cycle⟩ :: s.replies
        ∧ t.txByteidx.toNat = k / 8 ∧ t.txBitidx.toNat = 7 - k % 8))

/-- The four symbol rows drive the sender's waveform cycle by cycle (30_encoding.md R102 to R104). That a row is run as
an operation is the model's choice (DESIGN CHOICE, entry 6). -/
def Obligations.SymbolsDriveTheirWaveforms : Prop :=
  ∀ (s : State) (SL D : Nat), D = s.tpDelta.toNat →
    SL = (if s.modeCtrl then s.params.syncLowHuCtrl else s.params.syncLowHuDev) * D / 2 →
    (∃ t, exec .symSync s = .next t ∧ OnlyLineDriven s t ∧ t.cycle = s.cycle + SL
      ∧ (∀ k, k < SL → drivenAt s t k = some true))
    ∧ (∃ t, exec .symBitsync s = .next t ∧ OnlyLineDriven s t ∧ t.cycle = s.cycle + 16 * D
      ∧ (∀ k, k < 8 * D → drivenAt s t k = some false)
      ∧ (∀ k, 8 * D ≤ k → k < 16 * D → drivenAt s t k = some true))
    ∧ (∃ t, exec .symBit0 s = .next t ∧ OnlyLineDriven s t ∧ t.cycle = s.cycle + D + 150
      ∧ (∀ k, k < D → drivenAt s t k = some false)
      ∧ (∀ k, D ≤ k → k < D + 150 → drivenAt s t k = some true))
    ∧ (∃ t, exec .symBit1 s = .next t ∧ OnlyLineDriven s t ∧ t.cycle = s.cycle + 2 * D + 150
      ∧ (∀ k, k < 2 * D → drivenAt s t k = some false)
      ∧ (∀ k, 2 * D ≤ k → k < 2 * D + 150 → drivenAt s t k = some true))

/-- The frame on the line occupies SYNC_LOW_CYC + 16 * DELTA + z * (DELTA + 150) + w * (2 * DELTA + 150) cycles, and is
what START_FRAME and then SEND_FRAME drive on a line nobody else holds low (30_encoding.md R105, R130). That the row is run
as an operation with a reply is the model's choice (DESIGN CHOICE, entry 6), as is that SEND_FRAME runs whoever owns the line
(entry 29), and that TX_BYTEIDX and TX_BITIDX stay as they are (entry 28). -/
def Obligations.FrameOnLineIsTheTransmission : Prop :=
  ∀ (s : State) (b : List Byte), isFrameBytes b = true →
    ∃ t, exec (.frameOnLine b) s = .next t ∧ OnlyLineDriven s t
      ∧ t.cycle = s.cycle + s.syncLowCyc + 16 * s.tpDelta.toNat + cellsLength s.timing b
      ∧ t.replies = ⟨t.cycle, 0x85, .onLine t.cycle⟩ :: s.replies
      ∧ ((∀ c, s.releasedAt c = true) → ∃ u w, exec .startFrame s = .next u ∧ exec (.sendFrame b) u = .next w
          ∧ w.cycle = t.cycle ∧ w.drvTrace = t.drvTrace ∧ w.linePrev = t.linePrev)

/-! ### Arbitration -/

/-- In a frozen or unconfigured cycle, and in a state other than its own, each operation of ARB writes nothing
(44_arbitration.md R215, R216). -/
def Obligations.FrozenArbWritesNothing : Prop :=
  ∀ s : State,
    (s.cfgValid = false ∨ s.rxActive = true ∨ s.trig = true ∨ s.diagMode = true ∨ s.hostLock = true →
      exec .arbWaiting s = .next s ∧ exec .arbListening s = .next s ∧ exec .arbStarting s = .next s
      ∧ exec .arbSending s = .next s ∧ exec .arbReading s = .next s)
    ∧ (s.arbState ≠ arbWaitingCode → exec .arbWaiting s = .next s)
    ∧ (s.arbState ≠ arbListeningCode → exec .arbListening s = .next s)
    ∧ (s.arbState ≠ arbStartingCode → exec .arbStarting s = .next s)
    ∧ (s.arbState ≠ arbSendingCode → exec .arbSending s = .next s)
    ∧ (s.arbState ≠ arbReadingCode → exec .arbReading s = .next s)

/-- Waiting tests the ring first, then the held frame, then OUTQ, and with nothing to do changes nothing; it takes the
oldest frame of OUTQ into TX_FRAME, byte for byte from index 0, and holds it (44_arbitration.md R218 to R221,
20_memory.md R74). That the bytes behind it are unchanged is the model's (DESIGN CHOICE, entry 8). -/
def Obligations.WaitingServesInboundFirst : Prop :=
  (∀ s : State, s.arbRuns s.hostLock = true → s.arbState = arbWaitingCode → s.arbSub = 0 →
      (s.ring ≠ [] → exec .arbWaiting s = .next { s with arbState := arbReadingCode, arbSub := 0 })
      ∧ (s.ring = [] → s.txHeld = true → exec .arbWaiting s = .next { s with arbState := arbListeningCode, arbSub := 0 })
      ∧ (s.ring = [] → s.txHeld = false → s.outq = [] → exec .arbWaiting s = .next s))
  ∧ (∀ (s : State) (f : List Byte) (q : List (List Byte)),
      s.arbRuns s.hostLock = true → s.arbState = arbWaitingCode → s.arbSub = 0 → s.txFrame.wf = true →
      s.ring = [] → s.txHeld = false → s.outq = f :: q → f.length ≤ 255 →
      ∃ t, exec .arbWaiting s = .next t
        ∧ t = { s with
            outq := q
            txFrame := t.txFrame
            txLen := BitVec.ofNat 8 f.length
            txHeld := true
            arbState := arbListeningCode
            arbSub := 0 }
        ∧ (∀ i, (h : i < f.length) → t.byte .txFrame i = f[i])
        ∧ (∀ i, f.length ≤ i → t.byte .txFrame i = s.byte .txFrame i)
        ∧ (∀ b i, b ≠ .txFrame → t.byte b i = s.byte b i))

/-- Listening: the carrier check on one sample, then the backoff, which a notification aborts and whose last cycle
enters Starting with the line low from the next cycle on (44_arbitration.md R222 to R225).
DRV_LOW is written in the cycle before it is driven (DEDUCED, entry 1). -/
def Obligations.ListeningChecksAndBacksOff : Prop :=
  ∀ s : State, s.arbRuns s.hostLock = true → s.arbState = arbListeningCode →
    (s.arbSub = 0 → s.line = false →
      exec .arbListening s = .next { s with
        arbState := arbWaitingCode, arbSub := 0, events := ⟨s.cycle, .listenBusy⟩ :: s.events })
    ∧ (s.arbSub = 0 → s.line = true →
      exec .arbListening s = .next { s with
        notify := false
        arbCnt := BitVec.ofNat 32 ((s.modeAddr.toNat + 6) * s.tpDelta.toNat / 4)
        arbSub := 1 })
    ∧ (s.arbSub = 1 → s.notify = true →
      exec .arbListening s = .next { s with
        arbState := arbWaitingCode, arbSub := 0, events := ⟨s.cycle, .backoffAbort⟩ :: s.events })
    ∧ (s.arbSub = 1 → s.notify = false → s.arbCnt = 1 →
      exec .arbListening s = .next { s with
        arbState := arbStartingCode, arbSub := 0, arbCnt := BitVec.ofNat 32 s.syncLowCyc, drvLow := true })
    ∧ (s.arbSub = 1 → s.notify = false → s.arbCnt ≠ 1 →
      exec .arbListening s = .next { s with arbCnt := s.arbCnt - 1 })

/-- Starting, one cycle: each phase counts down; the phases follow one another with DRV_LOW low, released, low; after
the last the first cell of Sending begins (44_arbitration.md R227, R228, R236). The first cycle s0, in which ARB_CNT holds
the whole SYNC low, and no other raises EV_TX_START(s0) (60_exceptions.md R316 row 10; DEDUCED, entry 13). -/
def Obligations.StartingStepsThroughItsPhases : Prop :=
  ∀ s : State, s.arbRuns s.hostLock = true → s.arbState = arbStartingCode →
    let ev : List Raised := if s.arbCnt = BitVec.ofNat 32 s.syncLowCyc then ⟨s.cycle, .txStart s.cycle⟩ :: s.events else s.events
    (s.arbSub = 0 → 1 < s.arbCnt.toNat → exec .arbStarting s = .next { s with arbCnt := s.arbCnt - 1, events := ev })
    ∧ (s.arbSub = 0 → s.arbCnt = 1 →
      exec .arbStarting s = .next { s with
        events := ev, arbSub := 1, arbCnt := BitVec.ofNat 32 (8 * s.tpDelta.toNat), drvLow := false })
    ∧ (s.arbSub = 1 → s.arbCnt = 1 →
      exec .arbStarting s = .next { s with
        arbSub := 2, arbCnt := BitVec.ofNat 32 (8 * s.tpDelta.toNat), drvLow := true })
    ∧ (s.arbSub = 1 ∨ s.arbSub = 2 → 1 < s.arbCnt.toNat →
      exec .arbStarting s = .next { s with arbCnt := s.arbCnt - 1 })
    ∧ (s.arbSub = 2 → s.arbCnt = 1 →
      exec .arbStarting s = .next { s with
        arbState := arbSendingCode
        arbSub := 0
        arbCnt := BitVec.ofNat 32
          (if (s.byte .txFrame 0).getLsbD 7 then 2 * s.tpDelta.toNat else s.tpDelta.toNat)
        txByteidx := 0
        txBitidx := 7
        drvLow := false })

/-- Starting as a whole: from its first cycle s0, whatever the line does, ARB drives SYNC and bit-sync for exactly
SYNC_LOW_CYC + 16 * DELTA cycles and is then in Sending at the first cell; nothing else of the state changes
but the event EV_TX_START(s0), raised in s0 and in the history from there on (44_arbitration.md R227, 43_transmission.md R200,
60_exceptions.md R316 row 10; DEDUCED, entry 13). -/
def Obligations.StartingDrivesTheWholePreamble : Prop :=
  ∀ (s : State) (SL : Nat),
    s.undisturbed → (∀ c ∈ s.inputs, c.rst = false) → s.cfgValid = true → s.diagMode = false → s.rxActive = false →
    s.arbState = arbStartingCode → s.arbSub = 0 → s.drvLow = true →
    SL = s.syncLowCyc → s.arbCnt = BitVec.ofNat 32 SL → 1 ≤ SL → SL < 2 ^ 32 → 1 ≤ s.tpDelta.toNat →
    8 * s.tpDelta.toNat < 2 ^ 32 →
    ∃ t, stepN (SL + 16 * s.tpDelta.toNat) s = some t
      ∧ t.drvTrace = List.replicate (8 * s.tpDelta.toNat) true ++ (List.replicate (8 * s.tpDelta.toNat) false
          ++ (List.replicate SL true ++ s.drvTrace))
      ∧ t.events = ⟨s.cycle, .txStart s.cycle⟩ :: s.events
      ∧ (∀ n u, 1 ≤ n → n ≤ SL + 16 * s.tpDelta.toNat → stepN n s = some u → u.events = t.events)
      ∧ t = { s with
          arbState := arbSendingCode
          arbSub := 0
          arbCnt := BitVec.ofNat 32
            (if (s.byte .txFrame 0).getLsbD 7 then 2 * s.tpDelta.toNat else s.tpDelta.toNat)
          txByteidx := 0
          txBitidx := 7
          drvLow := false
          linePrev := t.linePrev
          cycle := s.cycle + SL + 16 * s.tpDelta.toNat
          inputs := s.inputs.drop (SL + 16 * s.tpDelta.toNat)
          drvTrace := t.drvTrace
          events := t.events }

/-- Sending, one cycle, with `j` and `i` the byte and bit of the present cell and `H` its high phase: the high phase and the
guard count down; check 1 in the last high cycle raises EV_COLLISION_HIGH when it is low, and a return cycle follows; check
2 of the cell before in the first high cycle of a later cell goes to Listening with EV_COLLISION_GUARD when it is low; the
guard's end begins the next bit's cell, or the next byte's, and after the last cell leaves the return cycle, which frees the
frame and clears NOTIFY when check 2 is high, and goes to Listening with the frame held when it is low
(44_arbitration.md R229 to R232). The encoding of the return cycles is the model's (DESIGN CHOICE, entry 14). -/
def Obligations.SendingStepsThroughACell : Prop :=
  ∀ s : State, s.arbRuns s.hostLock = true → s.arbState = arbSendingCode → s.txByteidx ≠ 255 →
    let j := s.txByteidx.toNat
    let i := s.txBitidx.toNat
    let high := fun (y x : Nat) => if (s.byte .txFrame y).getLsbD x then 2 * s.tpDelta.toNat else s.tpDelta.toNat
    let H : Count := BitVec.ofNat 32 (high j i)
    let first := s.txByteidx = 0 ∧ s.txBitidx = 7
    (s.arbSub = 0 → 1 < s.arbCnt.toNat → (s.line = true ∨ first ∨ s.arbCnt ≠ H) →
      exec .arbSending s = .next { s with arbCnt := s.arbCnt - 1 })
    ∧ (s.arbSub = 0 → s.arbCnt = 1 → s.line = true →
      exec .arbSending s = .next { s with arbSub := 1, arbCnt := 150, drvLow := true })
    ∧ (s.arbSub = 0 → s.arbCnt = 1 → s.line = false → (first ∨ s.arbCnt ≠ H) →
      exec .arbSending s = .next { s with arbCnt := 0, events := ⟨s.cycle, .collisionHigh j i⟩ :: s.events })
    ∧ (s.arbSub = 0 → s.arbCnt ≠ 0 → s.arbCnt = H → ¬ first → s.line = false →
      exec .arbSending s = .next { s with
        arbState := arbListeningCode, arbSub := 0, drvLow := false
        events := ⟨s.cycle, .collisionGuard (if i = 7 then j - 1 else j) (if i = 7 then 0 else i + 1)⟩ :: s.events })
    ∧ (s.arbSub = 0 → s.arbCnt = 0 →
      exec .arbSending s = .next { s with arbState := arbListeningCode, arbSub := 0, drvLow := false })
    ∧ (s.arbSub = 1 → 1 < s.arbCnt.toNat → exec .arbSending s = .next { s with arbCnt := s.arbCnt - 1 })
    ∧ (s.arbSub = 1 → s.arbCnt = 1 → i ≠ 0 →
      exec .arbSending s = .next { s with
        arbSub := 0, arbCnt := BitVec.ofNat 32 (high j (i - 1)), txBitidx := s.txBitidx - 1, drvLow := false })
    ∧ (s.arbSub = 1 → s.arbCnt = 1 → i = 0 → j + 1 < s.txLen.toNat →
      exec .arbSending s = .next { s with
        arbSub := 0, arbCnt := BitVec.ofNat 32 (high (j + 1) 7), txByteidx := s.txByteidx + 1, txBitidx := 7
        drvLow := false })
    ∧ (s.arbSub = 1 → s.arbCnt = 1 → i = 0 → s.txLen.toNat ≤ j + 1 →
      exec .arbSending s = .next { s with arbCnt := 0, drvLow := false })
    ∧ (s.arbSub = 1 → s.arbCnt = 0 → s.line = true →
      exec .arbSending s = .next { s with
        arbState := arbWaitingCode, arbSub := 0, txHeld := false, notify := false, drvLow := false
        events := ⟨s.cycle, .txDone⟩ :: s.events })
    ∧ (s.arbSub = 1 → s.arbCnt = 0 → s.line = false →
      exec .arbSending s = .next { s with
        arbState := arbListeningCode, arbSub := 0, drvLow := false
        events := ⟨s.cycle, .collisionGuard j i⟩ :: s.events })

/-- Sending as a whole: stepping from its first cycle s1 drives what SEND_FRAME of the held frame drives, through its
return cycle, in which the line is released; with no collision ARB is then in Waiting, the frame freed and NOTIFY
cleared, and with one it is in Listening with the frame still held (44_arbitration.md R229 to R232). -/
def Obligations.SendingStepsMakeSendFrame : Prop :=
  ∀ s : State,
    s.undisturbed → (∀ c ∈ s.inputs, c.rst = false) → s.cfgValid = true → s.diagMode = false → s.rxActive = false →
    s.arbState = arbSendingCode → s.arbSub = 0 → s.txByteidx = 0 → s.txBitidx = 7 → s.drvLow = false →
    1 ≤ s.txLen.toNat → 1 ≤ s.tpDelta.toNat → 2 * s.tpDelta.toNat < 2 ^ 32 →
    s.arbCnt = BitVec.ofNat 32 (if (s.byte .txFrame 0).getLsbD 7 then 2 * s.tpDelta.toNat else s.tpDelta.toNat) →
    ∃ u t, exec (.sendFrame (s.txFrame.take s.txLen.toNat)) s = .next u
      ∧ stepN (u.cycle + 1 - s.cycle) s = some t
      ∧ t.cycle = u.cycle + 1 ∧ t.drvTrace = false :: u.drvTrace ∧ t.drvLow = false
      ∧ (u.events = s.events →
          t.arbState = arbWaitingCode ∧ t.txHeld = false ∧ t.notify = false
          ∧ t.events = ⟨u.cycle, .txDone⟩ :: s.events)
      ∧ (u.events ≠ s.events →
          t.arbState = arbListeningCode ∧ t.arbSub = 0 ∧ t.txHeld = s.txHeld ∧ t.notify = s.notify
          ∧ t.events = u.events)
      ∧ SameStorage s t ∧ t.ring = s.ring ∧ t.inq = s.inq ∧ t.outq = s.outq

/-- Reading POP moves the oldest capture to RD_FRAME byte for byte from index 0 and starts the wait of INQ_WAIT_CYC
cycles (44_arbitration.md R234). That the bytes behind it are unchanged is the model's (DESIGN CHOICE, entry 8). -/
def Obligations.ReadingPopsTheOldestCapture : Prop :=
  ∀ (s : State) (f : List Byte) (q : List (List Byte)),
    s.arbRuns s.hostLock = true → s.arbState = arbReadingCode → s.arbSub = 0 → s.rdFrame.wf = true →
    s.ring = f :: q → f.length ≤ 255 →
    ∃ t, exec .arbReading s = .next t
      ∧ t = { s with
          ring := q
          rdFrame := t.rdFrame
          rdLen := BitVec.ofNat 8 f.length
          arbCnt := BitVec.ofNat 32 s.params.inqWaitCyc
          arbSub := 1 }
      ∧ (∀ i, (h : i < f.length) → t.byte .rdFrame i = f[i])
      ∧ (∀ i, f.length ≤ i → t.byte .rdFrame i = s.byte .rdFrame i)
      ∧ (∀ b i, b ≠ .rdFrame → t.byte b i = s.byte b i)

/-- Reading WAIT pushes RD_FRAME to INQ in the first cycle there is room, drops it when the wait is over, and counts
down otherwise (44_arbitration.md R235). -/
def Obligations.ReadingWaitsForRoom : Prop :=
  ∀ s : State, s.arbRuns s.hostLock = true → s.arbState = arbReadingCode → s.arbSub = 1 →
    (s.inq.length < s.params.inqDepth →
      exec .arbReading s = .next { s with
        inq := s.inq ++ [(List.range s.rdLen.toNat).map (s.byte .rdFrame)]
        arbState := arbWaitingCode, arbSub := 0, events := ⟨s.cycle, .inqPushed⟩ :: s.events })
    ∧ (s.params.inqDepth ≤ s.inq.length → s.arbCnt = 0 →
      exec .arbReading s = .next { s with
        arbState := arbWaitingCode, arbSub := 0, events := ⟨s.cycle, .inqFull⟩ :: s.events })
    ∧ (s.params.inqDepth ≤ s.inq.length → s.arbCnt ≠ 0 →
      exec .arbReading s = .next { s with arbCnt := s.arbCnt - 1 })

/-- ARB_STATE changes in a clock cycle only along the transitions of 44_arbitration.md R236, and only in a cycle in
which ARB is not frozen, whatever calls wait: only a reset and the calls issued in the cycle itself are left out. -/
def Obligations.ArbMovesOnlyAlongTheTable : Prop :=
  ∀ s t : State, s.inputNow.rst = false → s.hostLock = false → (∀ c, s.calls.head? = some c → s.cycle < c.due) →
    step s = .next t → t.arbState ≠ s.arbState →
    s.arbRuns false = true
    ∧ ((s.arbState = arbWaitingCode ∧ t.arbState = arbReadingCode ∧ s.ring ≠ [])
      ∨ (s.arbState = arbWaitingCode ∧ t.arbState = arbListeningCode ∧ s.ring = [] ∧ t.txHeld = true)
      ∨ (s.arbState = arbListeningCode ∧ t.arbState = arbWaitingCode ∧ t.txHeld = s.txHeld)
      ∨ (s.arbState = arbListeningCode ∧ t.arbState = arbStartingCode ∧ s.arbSub = 1 ∧ s.notify = false
          ∧ s.arbCnt = 1 ∧ t.drvLow = true)
      ∨ (s.arbState = arbStartingCode ∧ t.arbState = arbSendingCode ∧ t.txByteidx = 0 ∧ t.txBitidx = 7)
      ∨ (s.arbState = arbSendingCode ∧ t.arbState = arbWaitingCode ∧ t.txHeld = false ∧ t.notify = false)
      ∨ (s.arbState = arbSendingCode ∧ t.arbState = arbListeningCode ∧ t.txHeld = s.txHeld ∧ t.drvLow = false)
      ∨ (s.arbState = arbReadingCode ∧ t.arbState = arbWaitingCode ∧ s.arbSub = 1))

/-- A stuck ARB_STATE of 5 to 7 sets STAT_INVARIANT and raises EV_INVARIANT in every cycle, releases the line and stays
(44_arbitration.md R237). An RX_PHASE of 6 or 7 found by a running receiver does the same and stays, and the reception ends
as an abort. An ARB_SUB the state does not define is flagged and the line released, with the step of sub-phase 0 where it has
an effect, and with nothing else where it has none (a POP of an empty RING); it never stops the machine (60_exceptions.md
R315). How R237, R112 and U7 go together in these is DEDUCED (entry 12). -/
def Obligations.UnreachableStateIsFlaggedAndStays : Prop :=
  ∀ s : State, s.undisturbed →
    (s.arbRuns false = true → 5 ≤ s.arbState.toNat →
      step s = .next { s.elapsed with
        statInvariant := true
        drvLow := false
        events := ⟨s.cycle, .invariant⟩ :: s.events })
    ∧ (s.diagMode = false → s.rxActive = true → 6 ≤ s.rxPhase.toNat →
      step s = .next { s.elapsed with
        rxActive := false
        notify := true
        statInvariant := true
        drvLow := false
        events := ⟨s.cycle, .invariant⟩ :: s.events })
    ∧ (s.arbRuns false = true → s.arbState.toNat ≤ 4 → s.arbSubDefined = false → ∃ t, step s = .next t
      ∧ t.statInvariant = true ∧ t.drvLow = false ∧ ⟨s.cycle, .invariant⟩ ∈ t.events
      ∧ (∀ u, step { s with arbSub := 0 } = .next u →
          t = { u with statInvariant := true, drvLow := false, arbSub := t.arbSub, events := t.events })
      ∧ (s.arbState = arbReadingCode → s.ring = [] → t = { s.elapsed with
          statInvariant := true
          drvLow := false
          events := ⟨s.cycle, .invariant⟩ :: s.events }))

/-- From submission to the line: a SUBMIT accepted in cycle u on an idle, quiet device pulls the line low first in
cycle u + 3 + BACKOFF(MODE_ADDR), not before, with the frame held (44_arbitration.md R238).
How the call arrives and that no listed input is a free line are the model's (DESIGN CHOICE, entries 4 and 7). -/
def Obligations.SubmissionReachesTheLineOnTime : Prop :=
  ∀ (s : State) (f : List Byte) (B : Nat),
    s.cfgValid = true → s.inputs = [] → s.linePrev = true → s.drvLow = false → s.rxActive = false →
    s.diagMode = false → s.hostLock = false → s.subWait = none → s.retWait = false →
    s.arbState = arbWaitingCode → s.arbSub = 0 → s.ring = [] → s.outq = [] → s.txHeld = false → s.txFrame.wf = true →
    1 ≤ s.params.outqDepth → 15 ≤ s.tpDelta.toNat → 261 * s.tpDelta.toNat < 2 ^ 32 →
    isFrameBytes f = true → s.calls = [⟨s.cycle, .host, encode (.submit f (.cycles 0))⟩] →
    B = (s.modeAddr.toNat + 6) * s.tpDelta.toNat / 4 →
    ∃ t, stepN (3 + B) s = some t
      ∧ t.cycle = s.cycle + 3 + B ∧ t.arbState = arbStartingCode ∧ t.drvLow = true
      ∧ t.drvTrace = List.replicate (3 + B) false ++ s.drvTrace
      ∧ t.txHeld = true ∧ t.txFrame.take t.txLen.toNat = f ∧ t.outq = []
      ∧ t.replies = ⟨s.cycle, 0x41, .status .ok⟩ :: s.replies

/-! ### Host operations -/

/-- INIT refuses address zero, then an unfit pin, then a busy bus, in that order, and writes nothing
(45_host_ops.md R252, R253, 60_exceptions.md R311, R321). That a SUBMIT or RETRIEVE which waits at the start of the cycle makes
it busy also when it returns in that cycle is the model's (DESIGN CHOICE, entry 9). -/
def Obligations.InitRefusesInOrder : Prop :=
  ∀ (m : BusMode) (s : State),
    let refused := fun st => { s with
      events := ⟨s.cycle, .initFail st⟩ :: s.events, replies := ⟨s.cycle, 0x40, .status st⟩ :: s.replies }
    (m.addr = 0 → exec (.init m) s = .next (refused .eAddrZero))
    ∧ (m.addr ≠ 0 → s.inputNow.pinOk = false → exec (.init m) s = .next (refused .ePin))
    ∧ (m.addr ≠ 0 → s.inputNow.pinOk = true → s.cfgValid = true →
        (s.arbState.toNat ∈ [1, 2, 3, 4] ∨ s.rxActive = true ∨ s.trig = true ∨ s.diagMode = true
          ∨ s.subWait ≠ none ∨ s.retWait = true) →
        exec (.init m) s = .next (refused .eBusy))

/-- An accepted INIT latches the mode and the timing profile of its grade, with legal parameters as whole numbers,
empties the queues, clears the flags and touches nothing else (45_host_ops.md R252, 10_state.md R27). -/
def Obligations.InitConfiguresTheBlock : Prop :=
  ∀ (m : BusMode) (s : State),
    m.addr ≠ 0 → s.inputNow.pinOk = true → s.busy = false → s.params.legal = true →
    ∃ t, exec (.init m) s = .next t
      ∧ t.tpDelta.toNat = s.params.delta.get m.grade
      ∧ t.tpTol.toNat = s.params.tol.get m.grade
      ∧ t.tpWmin.toNat = s.params.delta.get m.grade - s.params.tol.get m.grade
      ∧ t.tpWmax.toNat = s.params.delta.get m.grade + s.params.tol.get m.grade
      ∧ t.timing.legal
      ∧ t = { s with
          cfgValid := true
          modeAddr := m.addr
          modeCtrl := m.ctrl
          modeRdpol := m.rdpol
          modeGrade := m.grade
          tpDelta := t.tpDelta
          tpTol := t.tpTol
          tpWmin := t.tpWmin
          tpWmax := t.tpWmax
          tpSkew := 0
          ring := []
          inq := []
          outq := []
          txHeld := false
          notify := false
          statInvariant := false
          arbState := arbWaitingCode
          arbSub := 0
          arbCnt := 0
          rxPhase := 0
          drvLow := false
          hostLock := true
          events := ⟨s.cycle, .initOk⟩ :: s.events
          replies := ⟨s.cycle, 0x40, .status .ok⟩ :: s.replies }
      ∧ SameStorage s t

/-- SUBMIT on a configured block: E_LENGTH for a sequence that is no frame, a push and OK with room, E_QUEUE_FULL
without room and without wait, and else a wait (45_host_ops.md R254 to R256).
A wait is held in a field of the model's form (DESIGN CHOICE, entry 9). -/
def Obligations.SubmitQueuesOrRefuses : Prop :=
  ∀ (b : List Byte) (w : Wait) (s : State), s.cfgValid = true → s.subWait = none →
    (isFrameBytes b = false →
      exec (.submit b w) s = .next { s with replies := ⟨s.cycle, 0x41, .status .eLength⟩ :: s.replies })
    ∧ (isFrameBytes b = true → s.outq.length < s.params.outqDepth →
      exec (.submit b w) s = .next { s with
        outq := s.outq ++ [b]
        subWait := none
        events := ⟨s.cycle, .submitOk⟩ :: s.events
        replies := ⟨s.cycle, 0x41, .status .ok⟩ :: s.replies })
    ∧ (isFrameBytes b = true → s.params.outqDepth ≤ s.outq.length → w = .cycles 0 →
      exec (.submit b w) s = .next { s with
        subWait := none
        events := ⟨s.cycle, .submitFull⟩ :: s.events
        replies := ⟨s.cycle, 0x41, .status .eQueueFull⟩ :: s.replies })
    ∧ (isFrameBytes b = true → s.params.outqDepth ≤ s.outq.length → w ≠ .cycles 0 →
      exec (.submit b w) s = .next { s with subWait := some ⟨b, w⟩ })

/-- A waiting SUBMIT makes one attempt a cycle on the contents at the start of the cycle: with room it returns OK in that
cycle, its frame behind those the queue keeps, whether ARB takes the oldest in the same cycle or not; without room it
gives up after its last cycle and FOREVER never does, whether a RETRIEVE waits beside it or not (45_host_ops.md R255, R256,
R263, R264, 20_memory.md R77). It holds under the invariant `State.safe`, which every run from reset keeps.
Which cycle of the wait is counted first is read from R256 (DEDUCED, entry 9). -/
def Obligations.WaitingSubmitTriesOnceACycle : Prop :=
  ∀ (s t : State) (w : Waiting),
    s.safe → s.inputNow.rst = false → s.calls = [] → s.hostLock = false → s.subWait = some w →
    step s = .next t →
    (s.outq.length < s.params.outqDepth →
      t.subWait = none
      ∧ t.outq = (if s.arbRuns false = true ∧ s.arbState = arbWaitingCode ∧ s.ring = [] ∧ s.txHeld = false
          then s.outq.tail else s.outq) ++ [w.frame]
      ∧ t.replies.find? (fun r => r.op == 0x41) = some ⟨s.cycle, 0x41, .status .ok⟩)
    ∧ (s.params.outqDepth ≤ s.outq.length → w.left = .forever → t.subWait = some w)
    ∧ (∀ n, s.params.outqDepth ≤ s.outq.length → w.left = .cycles n → 1 < n.toNat →
        t.subWait = some ⟨w.frame, .cycles (n - 1)⟩)
    ∧ (∀ n, s.params.outqDepth ≤ s.outq.length → w.left = .cycles n → n.toNat ≤ 1 →
        t.subWait = none ∧ t.replies.find? (fun r => r.op == 0x41) = some ⟨s.cycle, 0x41, .status .eQueueFull⟩)

/-- RETRIEVE on a configured block hands over the oldest frame of INQ; with none it answers NONE under INSTANT and waits
under ASYNC (45_host_ops.md R258). -/
def Obligations.RetrieveFollowsThePolicy : Prop :=
  ∀ s : State, s.cfgValid = true → s.retWait = false →
    (∀ b q, s.inq = b :: q →
      exec .retrieve s = .next { s with
        inq := q
        retWait := false
        events := ⟨s.cycle, .retrieveOk⟩ :: s.events
        replies := ⟨s.cycle, 0x42, .retrieved .ok (some b)⟩ :: s.replies })
    ∧ (s.inq = [] → s.modeRdpol = false →
      exec .retrieve s = .next { s with
        events := ⟨s.cycle, .retrieveNone⟩ :: s.events
        replies := ⟨s.cycle, 0x42, .retrieved .none none⟩ :: s.replies })
    ∧ (s.inq = [] → s.modeRdpol = true → exec .retrieve s = .next { s with retWait := true })

/-- A waiting RETRIEVE completes in the first cycle in which INQ is not empty at the start of the cycle, and sees nothing
pushed in that cycle, whether a SUBMIT waits beside it or not (45_host_ops.md R259, R263, 20_memory.md R77). -/
def Obligations.WaitingRetrieveSeesTheStartOfTheCycle : Prop :=
  ∀ s t : State, s.inputNow.rst = false → s.calls = [] → s.hostLock = false → s.retWait = true →
    step s = .next t →
    (s.inq = [] → t.retWait = true ∧ t.inq.length ≤ 1)
    ∧ (∀ b q, s.inq = b :: q → t.retWait = false ∧ (t.inq = q ∨ ∃ x, t.inq = q ++ [x])
        ∧ t.replies.find? (fun r => r.op == 0x42) = some ⟨s.cycle, 0x42, .retrieved .ok (some b)⟩)

/-- READ_STATUS answers every host-visible register and writes nothing else, configured or not (45_host_ops.md
R262). -/
def Obligations.ReadStatusOnlyReads : Prop :=
  ∀ s : State, exec .readStatus s = .next { s with
    replies := ⟨s.cycle, 0x43, .registers ⟨s.cfgValid, s.modeAddr, s.modeCtrl, s.modeRdpol, s.modeGrade,
      s.tpDelta, s.tpTol, s.tpWmin, s.tpWmax, s.tpSkew, s.statInvariant,
      s.dsSync, s.dsBsh, s.dsBsl, s.dsBit0, s.dsBit1, s.diagGrade, s.diagViol,
      s.deFall, s.deRise, s.dePeriod, s.deStatus, s.diagYield⟩⟩ :: s.replies }

/-- Before INIT, SUBMIT, RETRIEVE and the three probes answer E_NOT_INIT and change nothing (45_host_ops.md R251). -/
def Obligations.NothingRunsBeforeInit : Prop :=
  ∀ (b : List Byte) (w : Wait) (s : State), s.cfgValid = false → s.subWait = none → s.retWait = false →
    exec (.submit b w) s = .next { s with replies := ⟨s.cycle, 0x41, .status .eNotInit⟩ :: s.replies }
    ∧ exec .retrieve s = .next { s with replies := ⟨s.cycle, 0x42, .retrieved .eNotInit none⟩ :: s.replies }
    ∧ exec .diagElec s = .next { s with replies := ⟨s.cycle, 0x50, .status .eNotInit⟩ :: s.replies }
    ∧ exec .diagTiming s = .next { s with replies := ⟨s.cycle, 0x51, .status .eNotInit⟩ :: s.replies }
    ∧ exec .diagYield s = .next { s with replies := ⟨s.cycle, 0x52, .status .eNotInit⟩ :: s.replies }

/-! ### Diagnostic engine -/

/-- A probe on a configured, idle block is accepted: DIAG_MODE and HOSTLOCK in this cycle, the ceiling loaded;
DIAG_TIMING clears the Raw Timing Sample and DIAG_ELEC drives from the next cycle on; it is refused with E_BUSY,
changing nothing, when ARB is not in Waiting, a reception or its trigger is on, or a probe runs (46_diagnostic.md R270,
R271, R273, R280). The probe's own working registers and DIAG_PHASE codes are the model's (DESIGN CHOICE, entries 15 and
16). -/
def Obligations.ProbesAreAcceptedWhenIdle : Prop :=
  ∀ s : State, s.cfgValid = true →
    (s.arbState = arbWaitingCode → s.rxActive = false → s.trig = false → s.diagMode = false →
      exec .diagElec s = .next { s with
        diagMode := true, diagOp := some .elec, diagPhase := 1, diagCnt := 0
        diagTmr := BitVec.ofNat 32 s.params.tmoElec, diagIdx := 0, diagBit := 0, diagShift := 0, diagAcc := 0
        diagFall := 0, hostLock := true, drvLow := decide (s.params.tmoElec ≠ 0) }
      ∧ exec .diagTiming s = .next { s with
        diagMode := true, diagOp := some .timing, diagPhase := 1, diagCnt := 0
        diagTmr := BitVec.ofNat 32 s.params.tmoTiming, diagIdx := 0, diagBit := 0, diagShift := 0, diagAcc := 0
        diagFall := 0, hostLock := true, dsSync := 0, dsBsh := 0, dsBsl := 0, dsBit0 := 0, dsBit1 := 0 }
      ∧ exec .diagYield s = .next { s with
        diagMode := true, diagOp := some .yield, diagPhase := 1, diagCnt := 0
        diagTmr := BitVec.ofNat 32 s.params.tmoYield, diagIdx := 0, diagBit := 0, diagShift := 0, diagAcc := 0
        diagFall := 0, hostLock := true })
    ∧ (s.arbState ≠ arbWaitingCode ∨ s.rxActive = true ∨ s.trig = true ∨ s.diagMode = true →
      exec .diagElec s = .next { s with replies := ⟨s.cycle, 0x50, .status .eBusy⟩ :: s.replies }
      ∧ exec .diagTiming s = .next { s with replies := ⟨s.cycle, 0x51, .status .eBusy⟩ :: s.replies }
      ∧ exec .diagYield s = .next { s with replies := ⟨s.cycle, 0x52, .status .eBusy⟩ :: s.replies })

/-- DIAG_ELEC from its first cycle d0, T cycles before its ceiling: with the line high for `f` more cycles of driving and low
for `w` cycles of release, both before the ceiling, it drives f + 1 cycles, ends in cycle d0 + f + 1 + w with OK and leaves
DE_FALL = f, DE_RISE = w, DE_PERIOD = f + w, DE_STATUS = 0. When the line never falls it ends in d0 + T with E_DIAG_TMO,
DE_FALL = T, DE_RISE = 0; when it does not rise in time, with DE_FALL = f and DE_RISE = T - (f + 1); DE_PERIOD = 0 and
DE_STATUS = 1 in both (46_diagnostic.md R271 to R273). Besides these four registers and the probe's own only the line, the
time and the histories move: the registers of ARB and RX, a held frame, the FIFOs and every buffer stay (R270). A line that reads high while driven is ENV's fall delay (entry 4).
DIAG_PHASE codes are the model's (DESIGN CHOICE, entry 15). -/
def Obligations.ElecProbeMeasuresTheEdges : Prop :=
  ∀ (s : State) (T : Nat),
    s.undisturbed → (∀ c ∈ s.inputs, c.rst = false) → s.cfgValid = true → s.rxActive = false →
    s.diagMode = true → s.diagOp = some .elec → s.diagPhase = 1 → s.diagCnt = 0 → s.drvLow = true →
    T = s.params.tmoElec → s.diagTmr = BitVec.ofNat 32 T → T < 2 ^ 32 → 1 ≤ T →
    let ends := fun (tEnd fall rise period : Nat) (tmo : Bool) (st : Status) (t : State) =>
      t.deFall.toNat = fall ∧ t.deRise.toNat = rise ∧ t.dePeriod.toNat = period ∧ t.deStatus = tmo
      ∧ t.diagMode = false ∧ t.drvLow = false
      ∧ t.replies = ⟨tEnd, 0x50, .status st⟩ :: s.replies
      ∧ t.events = ⟨tEnd, .diagDone .elec st⟩ :: s.events
      ∧ t = { s with
          deFall := t.deFall, deRise := t.deRise, dePeriod := t.dePeriod, deStatus := tmo
          diagMode := false, diagOp := t.diagOp, diagPhase := t.diagPhase, diagCnt := t.diagCnt, diagTmr := t.diagTmr
          diagFall := t.diagFall, drvLow := false, linePrev := t.linePrev, cycle := tEnd + 1, inputs := t.inputs
          drvTrace := t.drvTrace, events := t.events, replies := t.replies }
    (∀ f w, f + 1 + w < T →
      (∀ k, k < f → (s.inputAt (s.cycle + k)).line.level true = true) →
      (s.inputAt (s.cycle + f)).line.level true = false →
      (∀ k, k < w → s.releasedAt (s.cycle + f + 1 + k) = false) → s.releasedAt (s.cycle + f + 1 + w) = true →
      ∃ t, stepN (f + w + 2) s = some t ∧ ends (s.cycle + f + 1 + w) f w (f + w) false .ok t
        ∧ t.drvTrace = List.replicate (w + 1) false ++ (List.replicate (f + 1) true ++ s.drvTrace))
    ∧ ((∀ k, k < T → (s.inputAt (s.cycle + k)).line.level true = true) →
      ∃ t, stepN (T + 1) s = some t ∧ ends (s.cycle + T) T 0 0 true .eDiagTmo t
        ∧ t.drvTrace = false :: (List.replicate T true ++ s.drvTrace))
    ∧ (∀ f, f < T →
      (∀ k, k < f → (s.inputAt (s.cycle + k)).line.level true = true) →
      (s.inputAt (s.cycle + f)).line.level true = false →
      (∀ k, f < k → k < T → s.releasedAt (s.cycle + k) = false) →
      ∃ t, stepN (T + 1) s = some t ∧ ends (s.cycle + T) f (T - (f + 1)) 0 true .eDiagTmo t
        ∧ t.drvTrace = List.replicate (T - f) false ++ (List.replicate (f + 1) true ++ s.drvTrace))

/-- A timing or forced-yield probe that sees no falling edge before its ceiling T ends in cycle T with E_DIAG_TMO: the
timing probe with V_SYNC_ABSENT alone and the grade of an unmeasured width, the other with NONE_OBSERVED
(46_diagnostic.md R273, R279, R288, R289).
DIAG_PHASE codes are the model's (DESIGN CHOICE, entry 15). -/
def Obligations.ProbesTimeOutOnAQuietLine : Prop :=
  ∀ (s : State) (T : Nat),
    s.undisturbed → (∀ c ∈ s.inputs, c.rst = false) → s.cfgValid = true → s.rxActive = false → s.diagMode = true →
    s.diagPhase = 1 → s.drvLow = false → s.diagTmr = BitVec.ofNat 32 T → T < 2 ^ 32 → s.dsBit0 = 0 →
    (∀ k, k < T → s.lineAt (s.cycle + k) = false →
      (if k = 0 then s.linePrev else s.lineAt (s.cycle + k - 1)) = false) →
    (s.diagOp = some .timing → ∃ t, stepN (T + 1) s = some t
      ∧ t.diagViol = 0x0001 ∧ t.diagGrade = 7 ∧ t.diagMode = false
      ∧ t.replies = ⟨s.cycle + T, 0x51, .status .eDiagTmo⟩ :: s.replies
      ∧ t.view = { s.view with diagViol := 0x0001, diagGrade := 7 })
    ∧ (s.diagOp = some .yield → ∃ t, stepN (T + 1) s = some t
      ∧ t.diagYield = 0 ∧ t.diagMode = false
      ∧ t.replies = ⟨s.cycle + T, 0x52, .status .eDiagTmo⟩ :: s.replies
      ∧ t.view = { s.view with diagYield := 0 })

/-- The timing probe, one cycle before its ceiling, in every phase from the edge to the high run after the last guard, with
`n` the cycles of the run so far: a run goes on, or its end writes its register and the violation bits that R283 says (SYNC
long above 10 * DELTA, short below SYNC_MIN_CYC, bit-sync outside 8 * WMIN to 8 * WMAX); a bit is sampled by its width, the
first width of each value goes to DS_BIT0 or DS_BIT1, the bit to its place, bit 7 first, a complete byte to DIAG_BUF, and
after the byte that the tag announces as the last one the guard is waited out (46_diagnostic.md R278, R281, R283). DIAG_PHASE
codes and the probe's own registers are the model's (DESIGN CHOICE, entry 15), as is that the bytes of DIAG_BUF no bit was
sampled for keep their values (entry 8). How a pass ends is TimingProbeEndsWithItsMask. -/
def Obligations.TimingProbeClassifiesEachPhase : Prop :=
  ∀ s : State, s.undisturbed → s.cfgValid = true → s.rxActive = false → s.diagMode = true →
    s.diagOp = some .timing → s.diagTmr ≠ 0 →
    let n := s.diagCnt.toNat
    let D := s.tpDelta.toNat
    let S := { s.elapsed with diagTmr := s.diagTmr - 1 }
    let bit := decide (s.tpWmax.toNat < n)
    let placed := fun b : Byte => ∀ i, i < 8 → b.getLsbD i =
      (if i = 7 - s.diagBit.toNat then bit else decide (s.diagBit ≠ 0) && s.diagShift.getLsbD i)
    let bit0 := if bit = false ∧ s.dsBit0 = 0 then s.diagCnt else s.dsBit0
    let bit1 := if bit = true ∧ s.dsBit1 = 0 then s.diagCnt else s.dsBit1
    let outOfRange := decide (n < 8 * s.tpWmin.toNat ∨ 8 * s.tpWmax.toNat < n)
    (s.diagPhase = 1 → s.fall = false → step s = .next S)
    ∧ (s.diagPhase = 1 → s.fall = true → step s = .next { S with diagPhase := 2, diagCnt := 1 })
    ∧ (s.diagPhase = 2 → s.line = false → step s = .next { S with diagCnt := s.diagCnt + 1 })
    ∧ (s.diagPhase = 2 → s.line = true → ∃ v : Mask,
      step s = .next { S with dsSync := s.diagCnt, diagAcc := v, diagPhase := 3, diagCnt := 1 }
      ∧ ∀ i, v.getLsbD i = (s.diagAcc.getLsbD i || (decide (i = 1) && decide (10 * D < n))
          || (decide (i = 2) && decide (n < s.params.syncMin.get s.modeGrade))))
    ∧ (s.diagPhase = 3 → s.line = true → step s = .next { S with diagCnt := s.diagCnt + 1 })
    ∧ (s.diagPhase = 3 → s.line = false → ∃ v : Mask,
      step s = .next { S with dsBsh := s.diagCnt, diagAcc := v, diagPhase := 4, diagCnt := 1 }
      ∧ ∀ i, v.getLsbD i = (s.diagAcc.getLsbD i || (decide (i = 3) && outOfRange)))
    ∧ (s.diagPhase = 4 → s.line = false → step s = .next { S with diagCnt := s.diagCnt + 1 })
    ∧ (s.diagPhase = 4 → s.line = true → ∃ v : Mask,
      step s = .next { S with dsBsl := s.diagCnt, diagAcc := v, diagPhase := 6, diagCnt := 1 }
      ∧ ∀ i, v.getLsbD i = (s.diagAcc.getLsbD i || (decide (i = 4) && outOfRange)))
    ∧ (s.diagPhase = 5 → s.line = false → n < 10 * D → step s = .next { S with diagCnt := s.diagCnt + 1 })
    ∧ (s.diagPhase = 5 → s.line = true → step s = .next { S with diagPhase := 6, diagCnt := 1 })
    ∧ (s.diagPhase = 6 → s.line = true → n < 25 * D → step s = .next { S with diagCnt := s.diagCnt + 1 })
    ∧ (s.diagPhase = 6 → s.line = false → s.diagBit ≠ 7 → ∃ b, placed b
      ∧ step s = .next { S with
          dsBit0 := bit0, dsBit1 := bit1, diagShift := b, diagBit := s.diagBit + 1, diagPhase := 5, diagCnt := 1 })
    ∧ (s.diagPhase = 6 → s.line = false → s.diagBit = 7 → s.diagIdx ≠ 255 → s.diagBuf.wf = true → ∃ b m, placed b
      ∧ step s = .next { S with
          dsBit0 := bit0, dsBit1 := bit1, diagShift := b, diagBit := 0, diagBuf := m, diagIdx := s.diagIdx + 1
          diagPhase := if s.diagIdx.toNat + 1 < (if (m.read 0).toNat = 0 then 12 else (m.read 0).toNat) then 5 else 7
          diagCnt := 1 }
      ∧ m.read s.diagIdx.toNat = b ∧ ∀ i, i ≠ s.diagIdx.toNat → m.read i = s.byte .diagBuf i)
    ∧ (s.diagPhase = 7 → s.line = false → n < 10 * D → step s = .next { S with diagCnt := s.diagCnt + 1 })
    ∧ (s.diagPhase = 7 → s.line = true → step s = .next { S with diagPhase := 8, diagCnt := 1 })
    ∧ (s.diagPhase = 8 → s.line = true → n ≤ 2 * D + s.tpTol.toNat →
      step s = .next { S with diagCnt := s.diagCnt + 1 })

/-- How a pass of the timing probe ends, DIAG_VIOL and DIAG_GRADE written once and the probe over in that cycle. At the
ceiling: V_SYNC_ABSENT alone before an edge, else V_PROBE_TMO added, E_DIAG_TMO. By a bit that never resolves or a last guard
without end: V_BIT_FAULT added, OK. After the last guard: the violations VALIDATE finds in the captured bytes added, and
V_TRAILING when the line falls again after at most 2 * DELTA + TOL high cycles, OK. The grade is UNCLASSIFIED when DS_BIT0 was
not measured and INFER_GRADE of it otherwise (46_diagnostic.md R278, R279, R282, R284 to R286). DIAG_PHASE codes and the cycle
in which the end is decided are the model's (DESIGN CHOICE, entry 15, DEDUCED, entry 17). -/
def Obligations.TimingProbeEndsWithItsMask : Prop :=
  ∀ s : State, s.undisturbed → s.cfgValid = true → s.rxActive = false → s.diagMode = true →
    s.diagOp = some .timing →
    let n := s.diagCnt.toNat
    let D := s.tpDelta.toNat
    let U := s.params.uInf
    let w := s.dsBit0.toNat
    let len := if (s.byte .diagBuf 0).toNat = 0 then 12 else (s.byte .diagBuf 0).toNat
    let captured := (List.range len).map (s.byte .diagBuf)
    let ends := fun (st : Status) (bits : Nat → Bool) => ∃ v : Mask, (∀ i, i < 16 → v.getLsbD i = bits i)
      ∧ step s = .next { s.elapsed with
          diagViol := v
          diagGrade := if w = 0 then 7 else if w < 2 * U then 3 else if w < 3 * U then 2 else if w < 6 * U then 1
            else if w < 23 * U then 0 else 7
          diagMode := false
          diagOp := none
          diagPhase := 0
          drvLow := false
          events := ⟨s.cycle, .diagDone .timing st⟩ :: s.events
          replies := ⟨s.cycle, 0x51, .status st⟩ :: s.replies }
    (s.diagTmr = 0 → s.diagPhase = 1 → ends .eDiagTmo (fun i => decide (i = 0)))
    ∧ (s.diagTmr = 0 → s.diagPhase.toNat ∈ [2, 3, 4, 5, 6, 7, 8] →
      ends .eDiagTmo (fun i => s.diagAcc.getLsbD i || decide (i = 13)))
    ∧ (s.diagTmr ≠ 0 → (s.diagPhase = 5 ∨ s.diagPhase = 7) → s.line = false → 10 * D ≤ n →
      ends .ok (fun i => s.diagAcc.getLsbD i || decide (i = 12)))
    ∧ (s.diagTmr ≠ 0 → s.diagPhase = 6 → s.line = true → 25 * D ≤ n →
      ends .ok (fun i => s.diagAcc.getLsbD i || decide (i = 12)))
    ∧ (s.diagTmr ≠ 0 → s.diagPhase = 8 → ∃ m : Mask,
      exec (.validate captured) s =
        .next { s with replies := ⟨s.cycle, 0x13, .violations .ok (some m)⟩ :: s.replies }
      ∧ (n ≤ 2 * D + s.tpTol.toNat → s.line = false →
        ends .ok (fun i => s.diagAcc.getLsbD i || decide (i = 5) || m.getLsbD i))
      ∧ (2 * D + s.tpTol.toNat < n → ends .ok (fun i => s.diagAcc.getLsbD i || m.getLsbD i)))

/-- INFER_GRADE: the thresholds 2, 3, 6 and 23 units, each strict, and UNCLASSIFIED above (46_diagnostic.md R286). -/
def Obligations.GradeFollowsTheThresholds : Prop :=
  ∀ (w : Count) (s : State) (U : Nat), U = s.params.uInf →
    exec (.inferGrade w) s = .next { s with replies := ⟨s.cycle, 0x53, .grade
      (if w.toNat < 2 * U then 3 else if w.toNat < 3 * U then 2 else if w.toNat < 6 * U then 1
        else if w.toNat < 23 * U then 0 else 7)⟩ :: s.replies }

/-- The forced-yield probe, one cycle of its search for a frame and of the tag byte after it, with `n` the cycles of the run
so far: the framing tests are the production receiver's, a run that fails one sends the probe back to looking for an edge,
the fall that ends a high phase too short being itself the next edge; a bit of the tag byte or its last guard that never
ends is NONE_OBSERVED with OK; with too little time for the injection the probe waits for its ceiling; and at the ceiling
it is NONE_OBSERVED with E_DIAG_TMO in each of these phases (46_diagnostic.md R273, R288, R289). DIAG_PHASE codes are the
model's (DESIGN CHOICE, entry 15). The injection is InjectionIsEightDominantCells. -/
def Obligations.YieldProbeLooksForATag : Prop :=
  ∀ s : State, s.undisturbed → s.cfgValid = true → s.rxActive = false → s.diagMode = true → s.diagOp = some .yield →
    let n := s.diagCnt.toNat
    let D := s.tpDelta.toNat
    let S := { s.elapsed with diagTmr := s.diagTmr - 1 }
    let goes := fun (ph : BitVec 4) (c : Count) => step s = .next { S with diagPhase := ph, diagCnt := c }
    let counts := step s = .next { S with diagCnt := s.diagCnt + 1 }
    let noneObserved := fun (st : Status) => step s = .next { s.elapsed with
      diagYield := 0
      diagMode := false
      diagOp := none
      diagPhase := 0
      drvLow := false
      events := ⟨s.cycle, .diagDone .yield st⟩ :: s.events
      replies := ⟨s.cycle, 0x52, .status st⟩ :: s.replies }
    (s.diagTmr = 0 → s.diagPhase.toNat ∈ [1, 2, 3, 4, 5, 6, 7, 13] → noneObserved .eDiagTmo)
    ∧ (s.diagTmr ≠ 0 →
      (s.diagPhase = 1 → s.fall = true → goes 2 1)
      ∧ (s.diagPhase = 1 → s.fall = false → step s = .next S)
      ∧ (s.diagPhase = 2 → s.line = true → goes 3 1)
      ∧ (s.diagPhase = 2 → s.line = false → 10 * D ≤ n → goes 1 0)
      ∧ (s.diagPhase = 2 → s.line = false → n < 10 * D → counts)
      ∧ (s.diagPhase = 3 → s.line = true → 25 * D ≤ n → goes 1 0)
      ∧ (s.diagPhase = 3 → s.line = true → n < 25 * D → counts)
      ∧ (s.diagPhase = 3 → s.line = false → n < 6 * D → goes 2 1)
      ∧ (s.diagPhase = 3 → s.line = false → 6 * D ≤ n → goes 4 1)
      ∧ (s.diagPhase = 4 → s.line = true → step s = .next { S with diagPhase := 6, diagCnt := 1, diagBit := 0 })
      ∧ (s.diagPhase = 4 → s.line = false → 10 * D ≤ n → goes 1 0)
      ∧ (s.diagPhase = 4 → s.line = false → n < 10 * D → counts)
      ∧ (s.diagPhase = 5 → s.line = true → goes 6 1)
      ∧ (s.diagPhase = 5 → s.line = false → 10 * D ≤ n → noneObserved .ok)
      ∧ (s.diagPhase = 5 → s.line = false → n < 10 * D → counts)
      ∧ (s.diagPhase = 6 → s.line = true → 25 * D ≤ n → noneObserved .ok)
      ∧ (s.diagPhase = 6 → s.line = true → n < 25 * D → counts)
      ∧ (s.diagPhase = 6 → s.line = false → ∃ b, step s = .next { S with
          diagShift := b, diagBit := s.diagBit + 1, diagPhase := if s.diagBit = 7 then 7 else 5, diagCnt := 1 })
      ∧ (s.diagPhase = 7 → s.line = false → 10 * D ≤ n → noneObserved .ok)
      ∧ (s.diagPhase = 7 → s.line = false → n < 10 * D → counts)
      ∧ (s.diagPhase = 7 → s.line = true → s.diagTmr.toNat ≤ 8 * (D + 150) + 25 * D + 150 → goes 13 0)
      ∧ (s.diagPhase = 13 → step s = .next S))

/-- The injection of the forced-yield probe: from the first high cycle after the tag byte's last guard, with time left,
it drives eight cells of value 0, each released for DELTA and low for 150 cycles, whatever the line does, and then
releases the line (46_diagnostic.md R288, R291).
DIAG_PHASE codes are the model's (DESIGN CHOICE, entry 15). -/
def Obligations.InjectionIsEightDominantCells : Prop :=
  ∀ s : State, s.undisturbed → (∀ c ∈ s.inputs, c.rst = false) → s.cfgValid = true → s.rxActive = false →
    s.diagMode = true → s.diagOp = some .yield → s.diagPhase = 7 → s.drvLow = false → s.line = true →
    1 ≤ s.tpDelta.toNat → 8 * (s.tpDelta.toNat + 150) + 25 * s.tpDelta.toNat + 150 < s.diagTmr.toNat →
    ∃ t, stepN (8 * (s.tpDelta.toNat + 150)) s = some t
      ∧ t.drvTrace = (List.replicate 8 (List.replicate s.tpDelta.toNat false ++ List.replicate 150 true)).flatten.reverse
          ++ s.drvTrace
      ∧ t.drvLow = false ∧ t.diagMode = true ∧ t.diagPhase = 11 ∧ t.diagCnt = 0
      ∧ t.events = s.events ∧ t.replies = s.replies ∧ t.view = s.view

/-- The outcome of the forced-yield probe, from the first released cycle after the injection: high for more than HIGH_TMO
is YIELDED at the limit; a fall sooner with a low run of at most 150 cycles is DID_NOT_YIELD at its end; a longer one is
YIELDED in its 151st cycle (46_diagnostic.md R288, R292).
DIAG_PHASE codes are the model's (DESIGN CHOICE, entry 15). -/
def Obligations.YieldOutcomeFollowsTheLine : Prop :=
  ∀ (s : State) (y q : Nat),
    s.undisturbed → (∀ c ∈ s.inputs, c.rst = false) → s.cfgValid = true → s.rxActive = false →
    s.diagMode = true → s.diagOp = some .yield → s.diagPhase = 11 → s.diagCnt = 0 → s.drvLow = false →
    25 * s.tpDelta.toNat < 2 ^ 32 →
    let ends := fun (tEnd : Nat) (o : BitVec 2) => ∃ t, stepN (tEnd + 1 - s.cycle) s = some t
      ∧ t.diagYield = o ∧ t.diagMode = false ∧ t.drvLow = false
      ∧ t.replies = ⟨tEnd, 0x52, .status .ok⟩ :: s.replies
      ∧ t.events = ⟨tEnd, .diagDone .yield .ok⟩ :: s.events
      ∧ t.view = { s.view with diagYield := o }
    (follows s.lineAt s.cycle [(true, 25 * s.tpDelta.toNat + 1)] → ends (s.cycle + 25 * s.tpDelta.toNat) 2)
    ∧ (y ≤ 25 * s.tpDelta.toNat → 1 ≤ q → q ≤ 150 →
        follows s.lineAt s.cycle [(true, y), (false, q), (true, 1)] → ends (s.cycle + y + q) 1)
    ∧ (y ≤ 25 * s.tpDelta.toNat → follows s.lineAt s.cycle [(true, y), (false, 151)] →
        ends (s.cycle + y + 150) 2)
end

