-- ==== Sys2Proof/Laws/State.lean ====
section
/-! SUPPORT. What each shared update of the state does to each field, one lemma a field, so that no later proof unfolds
a record update. -/

namespace Sys2Proof.Machine

/-! ### raise -/

@[simp] theorem State.raise_cfgValid (s : State) (e : Event) : (s.raise e).cfgValid = s.cfgValid := rfl
@[simp] theorem State.raise_modeAddr (s : State) (e : Event) : (s.raise e).modeAddr = s.modeAddr := rfl
@[simp] theorem State.raise_modeCtrl (s : State) (e : Event) : (s.raise e).modeCtrl = s.modeCtrl := rfl
@[simp] theorem State.raise_modeRdpol (s : State) (e : Event) : (s.raise e).modeRdpol = s.modeRdpol := rfl
@[simp] theorem State.raise_modeGrade (s : State) (e : Event) : (s.raise e).modeGrade = s.modeGrade := rfl
@[simp] theorem State.raise_tpDelta (s : State) (e : Event) : (s.raise e).tpDelta = s.tpDelta := rfl
@[simp] theorem State.raise_tpTol (s : State) (e : Event) : (s.raise e).tpTol = s.tpTol := rfl
@[simp] theorem State.raise_tpWmin (s : State) (e : Event) : (s.raise e).tpWmin = s.tpWmin := rfl
@[simp] theorem State.raise_tpWmax (s : State) (e : Event) : (s.raise e).tpWmax = s.tpWmax := rfl
@[simp] theorem State.raise_tpSkew (s : State) (e : Event) : (s.raise e).tpSkew = s.tpSkew := rfl
@[simp] theorem State.raise_drvLow (s : State) (e : Event) : (s.raise e).drvLow = s.drvLow := rfl
@[simp] theorem State.raise_linePrev (s : State) (e : Event) : (s.raise e).linePrev = s.linePrev := rfl
@[simp] theorem State.raise_rxActive (s : State) (e : Event) : (s.raise e).rxActive = s.rxActive := rfl
@[simp] theorem State.raise_rxPhase (s : State) (e : Event) : (s.raise e).rxPhase = s.rxPhase := rfl
@[simp] theorem State.raise_rxCnt (s : State) (e : Event) : (s.raise e).rxCnt = s.rxCnt := rfl
@[simp] theorem State.raise_rxShift (s : State) (e : Event) : (s.raise e).rxShift = s.rxShift := rfl
@[simp] theorem State.raise_rxBitidx (s : State) (e : Event) : (s.raise e).rxBitidx = s.rxBitidx := rfl
@[simp] theorem State.raise_rxByteidx (s : State) (e : Event) : (s.raise e).rxByteidx = s.rxByteidx := rfl
@[simp] theorem State.raise_rxLen (s : State) (e : Event) : (s.raise e).rxLen = s.rxLen := rfl
@[simp] theorem State.raise_rxBuf (s : State) (e : Event) : (s.raise e).rxBuf = s.rxBuf := rfl
@[simp] theorem State.raise_notify (s : State) (e : Event) : (s.raise e).notify = s.notify := rfl
@[simp] theorem State.raise_ring (s : State) (e : Event) : (s.raise e).ring = s.ring := rfl
@[simp] theorem State.raise_inq (s : State) (e : Event) : (s.raise e).inq = s.inq := rfl
@[simp] theorem State.raise_outq (s : State) (e : Event) : (s.raise e).outq = s.outq := rfl
@[simp] theorem State.raise_arbState (s : State) (e : Event) : (s.raise e).arbState = s.arbState := rfl
@[simp] theorem State.raise_arbSub (s : State) (e : Event) : (s.raise e).arbSub = s.arbSub := rfl
@[simp] theorem State.raise_arbCnt (s : State) (e : Event) : (s.raise e).arbCnt = s.arbCnt := rfl
@[simp] theorem State.raise_txHeld (s : State) (e : Event) : (s.raise e).txHeld = s.txHeld := rfl
@[simp] theorem State.raise_txFrame (s : State) (e : Event) : (s.raise e).txFrame = s.txFrame := rfl
@[simp] theorem State.raise_txLen (s : State) (e : Event) : (s.raise e).txLen = s.txLen := rfl
@[simp] theorem State.raise_txByteidx (s : State) (e : Event) : (s.raise e).txByteidx = s.txByteidx := rfl
@[simp] theorem State.raise_txBitidx (s : State) (e : Event) : (s.raise e).txBitidx = s.txBitidx := rfl
@[simp] theorem State.raise_rdFrame (s : State) (e : Event) : (s.raise e).rdFrame = s.rdFrame := rfl
@[simp] theorem State.raise_rdLen (s : State) (e : Event) : (s.raise e).rdLen = s.rdLen := rfl
@[simp] theorem State.raise_statInvariant (s : State) (e : Event) : (s.raise e).statInvariant = s.statInvariant := rfl
@[simp] theorem State.raise_diagMode (s : State) (e : Event) : (s.raise e).diagMode = s.diagMode := rfl
@[simp] theorem State.raise_dsSync (s : State) (e : Event) : (s.raise e).dsSync = s.dsSync := rfl
@[simp] theorem State.raise_dsBsh (s : State) (e : Event) : (s.raise e).dsBsh = s.dsBsh := rfl
@[simp] theorem State.raise_dsBsl (s : State) (e : Event) : (s.raise e).dsBsl = s.dsBsl := rfl
@[simp] theorem State.raise_dsBit0 (s : State) (e : Event) : (s.raise e).dsBit0 = s.dsBit0 := rfl
@[simp] theorem State.raise_dsBit1 (s : State) (e : Event) : (s.raise e).dsBit1 = s.dsBit1 := rfl
@[simp] theorem State.raise_diagGrade (s : State) (e : Event) : (s.raise e).diagGrade = s.diagGrade := rfl
@[simp] theorem State.raise_diagViol (s : State) (e : Event) : (s.raise e).diagViol = s.diagViol := rfl
@[simp] theorem State.raise_deFall (s : State) (e : Event) : (s.raise e).deFall = s.deFall := rfl
@[simp] theorem State.raise_deRise (s : State) (e : Event) : (s.raise e).deRise = s.deRise := rfl
@[simp] theorem State.raise_dePeriod (s : State) (e : Event) : (s.raise e).dePeriod = s.dePeriod := rfl
@[simp] theorem State.raise_deStatus (s : State) (e : Event) : (s.raise e).deStatus = s.deStatus := rfl
@[simp] theorem State.raise_diagYield (s : State) (e : Event) : (s.raise e).diagYield = s.diagYield := rfl
@[simp] theorem State.raise_diagPhase (s : State) (e : Event) : (s.raise e).diagPhase = s.diagPhase := rfl
@[simp] theorem State.raise_diagCnt (s : State) (e : Event) : (s.raise e).diagCnt = s.diagCnt := rfl
@[simp] theorem State.raise_diagTmr (s : State) (e : Event) : (s.raise e).diagTmr = s.diagTmr := rfl
@[simp] theorem State.raise_diagBuf (s : State) (e : Event) : (s.raise e).diagBuf = s.diagBuf := rfl
@[simp] theorem State.raise_diagIdx (s : State) (e : Event) : (s.raise e).diagIdx = s.diagIdx := rfl
@[simp] theorem State.raise_diagBit (s : State) (e : Event) : (s.raise e).diagBit = s.diagBit := rfl
@[simp] theorem State.raise_subWait (s : State) (e : Event) : (s.raise e).subWait = s.subWait := rfl
@[simp] theorem State.raise_retWait (s : State) (e : Event) : (s.raise e).retWait = s.retWait := rfl
@[simp] theorem State.raise_diagOp (s : State) (e : Event) : (s.raise e).diagOp = s.diagOp := rfl
@[simp] theorem State.raise_diagShift (s : State) (e : Event) : (s.raise e).diagShift = s.diagShift := rfl
@[simp] theorem State.raise_diagAcc (s : State) (e : Event) : (s.raise e).diagAcc = s.diagAcc := rfl
@[simp] theorem State.raise_diagFall (s : State) (e : Event) : (s.raise e).diagFall = s.diagFall := rfl
@[simp] theorem State.raise_hostLock (s : State) (e : Event) : (s.raise e).hostLock = s.hostLock := rfl
@[simp] theorem State.raise_params (s : State) (e : Event) : (s.raise e).params = s.params := rfl
@[simp] theorem State.raise_cycle (s : State) (e : Event) : (s.raise e).cycle = s.cycle := rfl
@[simp] theorem State.raise_inputs (s : State) (e : Event) : (s.raise e).inputs = s.inputs := rfl
@[simp] theorem State.raise_calls (s : State) (e : Event) : (s.raise e).calls = s.calls := rfl
@[simp] theorem State.raise_drvTrace (s : State) (e : Event) : (s.raise e).drvTrace = s.drvTrace := rfl
@[simp] theorem State.raise_events (s : State) (e : Event) : (s.raise e).events = ⟨s.cycle, e⟩ :: s.events := rfl
@[simp] theorem State.raise_replies (s : State) (e : Event) : (s.raise e).replies = s.replies := rfl

/-! ### reply -/

@[simp] theorem State.reply_cfgValid (s : State) (op : Byte) (r : Result) :
    (s.reply op r).cfgValid = s.cfgValid := rfl
@[simp] theorem State.reply_modeAddr (s : State) (op : Byte) (r : Result) :
    (s.reply op r).modeAddr = s.modeAddr := rfl
@[simp] theorem State.reply_modeCtrl (s : State) (op : Byte) (r : Result) :
    (s.reply op r).modeCtrl = s.modeCtrl := rfl
@[simp] theorem State.reply_modeRdpol (s : State) (op : Byte) (r : Result) :
    (s.reply op r).modeRdpol = s.modeRdpol := rfl
@[simp] theorem State.reply_modeGrade (s : State) (op : Byte) (r : Result) :
    (s.reply op r).modeGrade = s.modeGrade := rfl
@[simp] theorem State.reply_tpDelta (s : State) (op : Byte) (r : Result) : (s.reply op r).tpDelta = s.tpDelta := rfl
@[simp] theorem State.reply_tpTol (s : State) (op : Byte) (r : Result) : (s.reply op r).tpTol = s.tpTol := rfl
@[simp] theorem State.reply_tpWmin (s : State) (op : Byte) (r : Result) : (s.reply op r).tpWmin = s.tpWmin := rfl
@[simp] theorem State.reply_tpWmax (s : State) (op : Byte) (r : Result) : (s.reply op r).tpWmax = s.tpWmax := rfl
@[simp] theorem State.reply_tpSkew (s : State) (op : Byte) (r : Result) : (s.reply op r).tpSkew = s.tpSkew := rfl
@[simp] theorem State.reply_drvLow (s : State) (op : Byte) (r : Result) : (s.reply op r).drvLow = s.drvLow := rfl
@[simp] theorem State.reply_linePrev (s : State) (op : Byte) (r : Result) :
    (s.reply op r).linePrev = s.linePrev := rfl
@[simp] theorem State.reply_rxActive (s : State) (op : Byte) (r : Result) :
    (s.reply op r).rxActive = s.rxActive := rfl
@[simp] theorem State.reply_rxPhase (s : State) (op : Byte) (r : Result) : (s.reply op r).rxPhase = s.rxPhase := rfl
@[simp] theorem State.reply_rxCnt (s : State) (op : Byte) (r : Result) : (s.reply op r).rxCnt = s.rxCnt := rfl
@[simp] theorem State.reply_rxShift (s : State) (op : Byte) (r : Result) : (s.reply op r).rxShift = s.rxShift := rfl
@[simp] theorem State.reply_rxBitidx (s : State) (op : Byte) (r : Result) :
    (s.reply op r).rxBitidx = s.rxBitidx := rfl
@[simp] theorem State.reply_rxByteidx (s : State) (op : Byte) (r : Result) :
    (s.reply op r).rxByteidx = s.rxByteidx := rfl
@[simp] theorem State.reply_rxLen (s : State) (op : Byte) (r : Result) : (s.reply op r).rxLen = s.rxLen := rfl
@[simp] theorem State.reply_rxBuf (s : State) (op : Byte) (r : Result) : (s.reply op r).rxBuf = s.rxBuf := rfl
@[simp] theorem State.reply_notify (s : State) (op : Byte) (r : Result) : (s.reply op r).notify = s.notify := rfl
@[simp] theorem State.reply_ring (s : State) (op : Byte) (r : Result) : (s.reply op r).ring = s.ring := rfl
@[simp] theorem State.reply_inq (s : State) (op : Byte) (r : Result) : (s.reply op r).inq = s.inq := rfl
@[simp] theorem State.reply_outq (s : State) (op : Byte) (r : Result) : (s.reply op r).outq = s.outq := rfl
@[simp] theorem State.reply_arbState (s : State) (op : Byte) (r : Result) :
    (s.reply op r).arbState = s.arbState := rfl
@[simp] theorem State.reply_arbSub (s : State) (op : Byte) (r : Result) : (s.reply op r).arbSub = s.arbSub := rfl
@[simp] theorem State.reply_arbCnt (s : State) (op : Byte) (r : Result) : (s.reply op r).arbCnt = s.arbCnt := rfl
@[simp] theorem State.reply_txHeld (s : State) (op : Byte) (r : Result) : (s.reply op r).txHeld = s.txHeld := rfl
@[simp] theorem State.reply_txFrame (s : State) (op : Byte) (r : Result) : (s.reply op r).txFrame = s.txFrame := rfl
@[simp] theorem State.reply_txLen (s : State) (op : Byte) (r : Result) : (s.reply op r).txLen = s.txLen := rfl
@[simp] theorem State.reply_txByteidx (s : State) (op : Byte) (r : Result) :
    (s.reply op r).txByteidx = s.txByteidx := rfl
@[simp] theorem State.reply_txBitidx (s : State) (op : Byte) (r : Result) :
    (s.reply op r).txBitidx = s.txBitidx := rfl
@[simp] theorem State.reply_rdFrame (s : State) (op : Byte) (r : Result) : (s.reply op r).rdFrame = s.rdFrame := rfl
@[simp] theorem State.reply_rdLen (s : State) (op : Byte) (r : Result) : (s.reply op r).rdLen = s.rdLen := rfl
@[simp] theorem State.reply_statInvariant (s : State) (op : Byte) (r : Result) :
    (s.reply op r).statInvariant = s.statInvariant := rfl
@[simp] theorem State.reply_diagMode (s : State) (op : Byte) (r : Result) :
    (s.reply op r).diagMode = s.diagMode := rfl
@[simp] theorem State.reply_dsSync (s : State) (op : Byte) (r : Result) : (s.reply op r).dsSync = s.dsSync := rfl
@[simp] theorem State.reply_dsBsh (s : State) (op : Byte) (r : Result) : (s.reply op r).dsBsh = s.dsBsh := rfl
@[simp] theorem State.reply_dsBsl (s : State) (op : Byte) (r : Result) : (s.reply op r).dsBsl = s.dsBsl := rfl
@[simp] theorem State.reply_dsBit0 (s : State) (op : Byte) (r : Result) : (s.reply op r).dsBit0 = s.dsBit0 := rfl
@[simp] theorem State.reply_dsBit1 (s : State) (op : Byte) (r : Result) : (s.reply op r).dsBit1 = s.dsBit1 := rfl
@[simp] theorem State.reply_diagGrade (s : State) (op : Byte) (r : Result) :
    (s.reply op r).diagGrade = s.diagGrade := rfl
@[simp] theorem State.reply_diagViol (s : State) (op : Byte) (r : Result) :
    (s.reply op r).diagViol = s.diagViol := rfl
@[simp] theorem State.reply_deFall (s : State) (op : Byte) (r : Result) : (s.reply op r).deFall = s.deFall := rfl
@[simp] theorem State.reply_deRise (s : State) (op : Byte) (r : Result) : (s.reply op r).deRise = s.deRise := rfl
@[simp] theorem State.reply_dePeriod (s : State) (op : Byte) (r : Result) :
    (s.reply op r).dePeriod = s.dePeriod := rfl
@[simp] theorem State.reply_deStatus (s : State) (op : Byte) (r : Result) :
    (s.reply op r).deStatus = s.deStatus := rfl
@[simp] theorem State.reply_diagYield (s : State) (op : Byte) (r : Result) :
    (s.reply op r).diagYield = s.diagYield := rfl
@[simp] theorem State.reply_diagPhase (s : State) (op : Byte) (r : Result) :
    (s.reply op r).diagPhase = s.diagPhase := rfl
@[simp] theorem State.reply_diagCnt (s : State) (op : Byte) (r : Result) : (s.reply op r).diagCnt = s.diagCnt := rfl
@[simp] theorem State.reply_diagTmr (s : State) (op : Byte) (r : Result) : (s.reply op r).diagTmr = s.diagTmr := rfl
@[simp] theorem State.reply_diagBuf (s : State) (op : Byte) (r : Result) : (s.reply op r).diagBuf = s.diagBuf := rfl
@[simp] theorem State.reply_diagIdx (s : State) (op : Byte) (r : Result) : (s.reply op r).diagIdx = s.diagIdx := rfl
@[simp] theorem State.reply_diagBit (s : State) (op : Byte) (r : Result) : (s.reply op r).diagBit = s.diagBit := rfl
@[simp] theorem State.reply_subWait (s : State) (op : Byte) (r : Result) : (s.reply op r).subWait = s.subWait := rfl
@[simp] theorem State.reply_retWait (s : State) (op : Byte) (r : Result) : (s.reply op r).retWait = s.retWait := rfl
@[simp] theorem State.reply_diagOp (s : State) (op : Byte) (r : Result) : (s.reply op r).diagOp = s.diagOp := rfl
@[simp] theorem State.reply_diagShift (s : State) (op : Byte) (r : Result) :
    (s.reply op r).diagShift = s.diagShift := rfl
@[simp] theorem State.reply_diagAcc (s : State) (op : Byte) (r : Result) : (s.reply op r).diagAcc = s.diagAcc := rfl
@[simp] theorem State.reply_diagFall (s : State) (op : Byte) (r : Result) :
    (s.reply op r).diagFall = s.diagFall := rfl
@[simp] theorem State.reply_hostLock (s : State) (op : Byte) (r : Result) :
    (s.reply op r).hostLock = s.hostLock := rfl
@[simp] theorem State.reply_params (s : State) (op : Byte) (r : Result) : (s.reply op r).params = s.params := rfl
@[simp] theorem State.reply_cycle (s : State) (op : Byte) (r : Result) : (s.reply op r).cycle = s.cycle := rfl
@[simp] theorem State.reply_inputs (s : State) (op : Byte) (r : Result) : (s.reply op r).inputs = s.inputs := rfl
@[simp] theorem State.reply_calls (s : State) (op : Byte) (r : Result) : (s.reply op r).calls = s.calls := rfl
@[simp] theorem State.reply_drvTrace (s : State) (op : Byte) (r : Result) :
    (s.reply op r).drvTrace = s.drvTrace := rfl
@[simp] theorem State.reply_events (s : State) (op : Byte) (r : Result) : (s.reply op r).events = s.events := rfl
@[simp] theorem State.reply_replies (s : State) (op : Byte) (r : Result) :
    (s.reply op r).replies = ⟨s.cycle, op, r⟩ :: s.replies := rfl

/-! ### passCycle -/

@[simp] theorem State.passCycle_cfgValid (s : State) (d : Bool) : (s.passCycle d).cfgValid = s.cfgValid := rfl
@[simp] theorem State.passCycle_modeAddr (s : State) (d : Bool) : (s.passCycle d).modeAddr = s.modeAddr := rfl
@[simp] theorem State.passCycle_modeCtrl (s : State) (d : Bool) : (s.passCycle d).modeCtrl = s.modeCtrl := rfl
@[simp] theorem State.passCycle_modeRdpol (s : State) (d : Bool) : (s.passCycle d).modeRdpol = s.modeRdpol := rfl
@[simp] theorem State.passCycle_modeGrade (s : State) (d : Bool) : (s.passCycle d).modeGrade = s.modeGrade := rfl
@[simp] theorem State.passCycle_tpDelta (s : State) (d : Bool) : (s.passCycle d).tpDelta = s.tpDelta := rfl
@[simp] theorem State.passCycle_tpTol (s : State) (d : Bool) : (s.passCycle d).tpTol = s.tpTol := rfl
@[simp] theorem State.passCycle_tpWmin (s : State) (d : Bool) : (s.passCycle d).tpWmin = s.tpWmin := rfl
@[simp] theorem State.passCycle_tpWmax (s : State) (d : Bool) : (s.passCycle d).tpWmax = s.tpWmax := rfl
@[simp] theorem State.passCycle_tpSkew (s : State) (d : Bool) : (s.passCycle d).tpSkew = s.tpSkew := rfl
@[simp] theorem State.passCycle_drvLow (s : State) (d : Bool) : (s.passCycle d).drvLow = s.drvLow := rfl
@[simp] theorem State.passCycle_linePrev (s : State) (d : Bool) :
    (s.passCycle d).linePrev = s.inputNow.line.level d := rfl
@[simp] theorem State.passCycle_rxActive (s : State) (d : Bool) : (s.passCycle d).rxActive = s.rxActive := rfl
@[simp] theorem State.passCycle_rxPhase (s : State) (d : Bool) : (s.passCycle d).rxPhase = s.rxPhase := rfl
@[simp] theorem State.passCycle_rxCnt (s : State) (d : Bool) : (s.passCycle d).rxCnt = s.rxCnt := rfl
@[simp] theorem State.passCycle_rxShift (s : State) (d : Bool) : (s.passCycle d).rxShift = s.rxShift := rfl
@[simp] theorem State.passCycle_rxBitidx (s : State) (d : Bool) : (s.passCycle d).rxBitidx = s.rxBitidx := rfl
@[simp] theorem State.passCycle_rxByteidx (s : State) (d : Bool) : (s.passCycle d).rxByteidx = s.rxByteidx := rfl
@[simp] theorem State.passCycle_rxLen (s : State) (d : Bool) : (s.passCycle d).rxLen = s.rxLen := rfl
@[simp] theorem State.passCycle_rxBuf (s : State) (d : Bool) : (s.passCycle d).rxBuf = s.rxBuf := rfl
@[simp] theorem State.passCycle_notify (s : State) (d : Bool) : (s.passCycle d).notify = s.notify := rfl
@[simp] theorem State.passCycle_ring (s : State) (d : Bool) : (s.passCycle d).ring = s.ring := rfl
@[simp] theorem State.passCycle_inq (s : State) (d : Bool) : (s.passCycle d).inq = s.inq := rfl
@[simp] theorem State.passCycle_outq (s : State) (d : Bool) : (s.passCycle d).outq = s.outq := rfl
@[simp] theorem State.passCycle_arbState (s : State) (d : Bool) : (s.passCycle d).arbState = s.arbState := rfl
@[simp] theorem State.passCycle_arbSub (s : State) (d : Bool) : (s.passCycle d).arbSub = s.arbSub := rfl
@[simp] theorem State.passCycle_arbCnt (s : State) (d : Bool) : (s.passCycle d).arbCnt = s.arbCnt := rfl
@[simp] theorem State.passCycle_txHeld (s : State) (d : Bool) : (s.passCycle d).txHeld = s.txHeld := rfl
@[simp] theorem State.passCycle_txFrame (s : State) (d : Bool) : (s.passCycle d).txFrame = s.txFrame := rfl
@[simp] theorem State.passCycle_txLen (s : State) (d : Bool) : (s.passCycle d).txLen = s.txLen := rfl
@[simp] theorem State.passCycle_txByteidx (s : State) (d : Bool) : (s.passCycle d).txByteidx = s.txByteidx := rfl
@[simp] theorem State.passCycle_txBitidx (s : State) (d : Bool) : (s.passCycle d).txBitidx = s.txBitidx := rfl
@[simp] theorem State.passCycle_rdFrame (s : State) (d : Bool) : (s.passCycle d).rdFrame = s.rdFrame := rfl
@[simp] theorem State.passCycle_rdLen (s : State) (d : Bool) : (s.passCycle d).rdLen = s.rdLen := rfl
@[simp] theorem State.passCycle_statInvariant (s : State) (d : Bool) :
    (s.passCycle d).statInvariant = s.statInvariant := rfl
@[simp] theorem State.passCycle_diagMode (s : State) (d : Bool) : (s.passCycle d).diagMode = s.diagMode := rfl
@[simp] theorem State.passCycle_dsSync (s : State) (d : Bool) : (s.passCycle d).dsSync = s.dsSync := rfl
@[simp] theorem State.passCycle_dsBsh (s : State) (d : Bool) : (s.passCycle d).dsBsh = s.dsBsh := rfl
@[simp] theorem State.passCycle_dsBsl (s : State) (d : Bool) : (s.passCycle d).dsBsl = s.dsBsl := rfl
@[simp] theorem State.passCycle_dsBit0 (s : State) (d : Bool) : (s.passCycle d).dsBit0 = s.dsBit0 := rfl
@[simp] theorem State.passCycle_dsBit1 (s : State) (d : Bool) : (s.passCycle d).dsBit1 = s.dsBit1 := rfl
@[simp] theorem State.passCycle_diagGrade (s : State) (d : Bool) : (s.passCycle d).diagGrade = s.diagGrade := rfl
@[simp] theorem State.passCycle_diagViol (s : State) (d : Bool) : (s.passCycle d).diagViol = s.diagViol := rfl
@[simp] theorem State.passCycle_deFall (s : State) (d : Bool) : (s.passCycle d).deFall = s.deFall := rfl
@[simp] theorem State.passCycle_deRise (s : State) (d : Bool) : (s.passCycle d).deRise = s.deRise := rfl
@[simp] theorem State.passCycle_dePeriod (s : State) (d : Bool) : (s.passCycle d).dePeriod = s.dePeriod := rfl
@[simp] theorem State.passCycle_deStatus (s : State) (d : Bool) : (s.passCycle d).deStatus = s.deStatus := rfl
@[simp] theorem State.passCycle_diagYield (s : State) (d : Bool) : (s.passCycle d).diagYield = s.diagYield := rfl
@[simp] theorem State.passCycle_diagPhase (s : State) (d : Bool) : (s.passCycle d).diagPhase = s.diagPhase := rfl
@[simp] theorem State.passCycle_diagCnt (s : State) (d : Bool) : (s.passCycle d).diagCnt = s.diagCnt := rfl
@[simp] theorem State.passCycle_diagTmr (s : State) (d : Bool) : (s.passCycle d).diagTmr = s.diagTmr := rfl
@[simp] theorem State.passCycle_diagBuf (s : State) (d : Bool) : (s.passCycle d).diagBuf = s.diagBuf := rfl
@[simp] theorem State.passCycle_diagIdx (s : State) (d : Bool) : (s.passCycle d).diagIdx = s.diagIdx := rfl
@[simp] theorem State.passCycle_diagBit (s : State) (d : Bool) : (s.passCycle d).diagBit = s.diagBit := rfl
@[simp] theorem State.passCycle_subWait (s : State) (d : Bool) : (s.passCycle d).subWait = s.subWait := rfl
@[simp] theorem State.passCycle_retWait (s : State) (d : Bool) : (s.passCycle d).retWait = s.retWait := rfl
@[simp] theorem State.passCycle_diagOp (s : State) (d : Bool) : (s.passCycle d).diagOp = s.diagOp := rfl
@[simp] theorem State.passCycle_diagShift (s : State) (d : Bool) : (s.passCycle d).diagShift = s.diagShift := rfl
@[simp] theorem State.passCycle_diagAcc (s : State) (d : Bool) : (s.passCycle d).diagAcc = s.diagAcc := rfl
@[simp] theorem State.passCycle_diagFall (s : State) (d : Bool) : (s.passCycle d).diagFall = s.diagFall := rfl
@[simp] theorem State.passCycle_hostLock (s : State) (d : Bool) : (s.passCycle d).hostLock = s.hostLock := rfl
@[simp] theorem State.passCycle_params (s : State) (d : Bool) : (s.passCycle d).params = s.params := rfl
@[simp] theorem State.passCycle_cycle (s : State) (d : Bool) : (s.passCycle d).cycle = s.cycle + 1 := rfl
@[simp] theorem State.passCycle_inputs (s : State) (d : Bool) : (s.passCycle d).inputs = s.inputs.tail := rfl
@[simp] theorem State.passCycle_calls (s : State) (d : Bool) : (s.passCycle d).calls = s.calls := rfl
@[simp] theorem State.passCycle_drvTrace (s : State) (d : Bool) : (s.passCycle d).drvTrace = d :: s.drvTrace := rfl
@[simp] theorem State.passCycle_events (s : State) (d : Bool) : (s.passCycle d).events = s.events := rfl
@[simp] theorem State.passCycle_replies (s : State) (d : Bool) : (s.passCycle d).replies = s.replies := rfl

/-! ### takeEdge -/

@[simp] theorem State.takeEdge_cfgValid (s : State) : s.takeEdge.cfgValid = s.cfgValid := rfl
@[simp] theorem State.takeEdge_modeAddr (s : State) : s.takeEdge.modeAddr = s.modeAddr := rfl
@[simp] theorem State.takeEdge_modeCtrl (s : State) : s.takeEdge.modeCtrl = s.modeCtrl := rfl
@[simp] theorem State.takeEdge_modeRdpol (s : State) : s.takeEdge.modeRdpol = s.modeRdpol := rfl
@[simp] theorem State.takeEdge_modeGrade (s : State) : s.takeEdge.modeGrade = s.modeGrade := rfl
@[simp] theorem State.takeEdge_tpDelta (s : State) : s.takeEdge.tpDelta = s.tpDelta := rfl
@[simp] theorem State.takeEdge_tpTol (s : State) : s.takeEdge.tpTol = s.tpTol := rfl
@[simp] theorem State.takeEdge_tpWmin (s : State) : s.takeEdge.tpWmin = s.tpWmin := rfl
@[simp] theorem State.takeEdge_tpWmax (s : State) : s.takeEdge.tpWmax = s.tpWmax := rfl
@[simp] theorem State.takeEdge_tpSkew (s : State) : s.takeEdge.tpSkew = s.tpSkew := rfl
@[simp] theorem State.takeEdge_drvLow (s : State) : s.takeEdge.drvLow = s.drvLow := rfl
@[simp] theorem State.takeEdge_linePrev (s : State) : s.takeEdge.linePrev = s.linePrev := rfl
@[simp] theorem State.takeEdge_rxActive (s : State) : s.takeEdge.rxActive = true := rfl
@[simp] theorem State.takeEdge_rxPhase (s : State) : s.takeEdge.rxPhase = 1 := rfl
@[simp] theorem State.takeEdge_rxCnt (s : State) : s.takeEdge.rxCnt = 1 := rfl
@[simp] theorem State.takeEdge_rxShift (s : State) : s.takeEdge.rxShift = s.rxShift := rfl
@[simp] theorem State.takeEdge_rxBitidx (s : State) : s.takeEdge.rxBitidx = 0 := rfl
@[simp] theorem State.takeEdge_rxByteidx (s : State) : s.takeEdge.rxByteidx = 0 := rfl
@[simp] theorem State.takeEdge_rxLen (s : State) : s.takeEdge.rxLen = s.rxLen := rfl
@[simp] theorem State.takeEdge_rxBuf (s : State) : s.takeEdge.rxBuf = s.rxBuf := rfl
@[simp] theorem State.takeEdge_notify (s : State) : s.takeEdge.notify = s.notify := rfl
@[simp] theorem State.takeEdge_ring (s : State) : s.takeEdge.ring = s.ring := rfl
@[simp] theorem State.takeEdge_inq (s : State) : s.takeEdge.inq = s.inq := rfl
@[simp] theorem State.takeEdge_outq (s : State) : s.takeEdge.outq = s.outq := rfl
@[simp] theorem State.takeEdge_arbState (s : State) : s.takeEdge.arbState = s.arbState := rfl
@[simp] theorem State.takeEdge_arbSub (s : State) : s.takeEdge.arbSub = s.arbSub := rfl
@[simp] theorem State.takeEdge_arbCnt (s : State) : s.takeEdge.arbCnt = s.arbCnt := rfl
@[simp] theorem State.takeEdge_txHeld (s : State) : s.takeEdge.txHeld = s.txHeld := rfl
@[simp] theorem State.takeEdge_txFrame (s : State) : s.takeEdge.txFrame = s.txFrame := rfl
@[simp] theorem State.takeEdge_txLen (s : State) : s.takeEdge.txLen = s.txLen := rfl
@[simp] theorem State.takeEdge_txByteidx (s : State) : s.takeEdge.txByteidx = s.txByteidx := rfl
@[simp] theorem State.takeEdge_txBitidx (s : State) : s.takeEdge.txBitidx = s.txBitidx := rfl
@[simp] theorem State.takeEdge_rdFrame (s : State) : s.takeEdge.rdFrame = s.rdFrame := rfl
@[simp] theorem State.takeEdge_rdLen (s : State) : s.takeEdge.rdLen = s.rdLen := rfl
@[simp] theorem State.takeEdge_statInvariant (s : State) : s.takeEdge.statInvariant = s.statInvariant := rfl
@[simp] theorem State.takeEdge_diagMode (s : State) : s.takeEdge.diagMode = s.diagMode := rfl
@[simp] theorem State.takeEdge_dsSync (s : State) : s.takeEdge.dsSync = s.dsSync := rfl
@[simp] theorem State.takeEdge_dsBsh (s : State) : s.takeEdge.dsBsh = s.dsBsh := rfl
@[simp] theorem State.takeEdge_dsBsl (s : State) : s.takeEdge.dsBsl = s.dsBsl := rfl
@[simp] theorem State.takeEdge_dsBit0 (s : State) : s.takeEdge.dsBit0 = s.dsBit0 := rfl
@[simp] theorem State.takeEdge_dsBit1 (s : State) : s.takeEdge.dsBit1 = s.dsBit1 := rfl
@[simp] theorem State.takeEdge_diagGrade (s : State) : s.takeEdge.diagGrade = s.diagGrade := rfl
@[simp] theorem State.takeEdge_diagViol (s : State) : s.takeEdge.diagViol = s.diagViol := rfl
@[simp] theorem State.takeEdge_deFall (s : State) : s.takeEdge.deFall = s.deFall := rfl
@[simp] theorem State.takeEdge_deRise (s : State) : s.takeEdge.deRise = s.deRise := rfl
@[simp] theorem State.takeEdge_dePeriod (s : State) : s.takeEdge.dePeriod = s.dePeriod := rfl
@[simp] theorem State.takeEdge_deStatus (s : State) : s.takeEdge.deStatus = s.deStatus := rfl
@[simp] theorem State.takeEdge_diagYield (s : State) : s.takeEdge.diagYield = s.diagYield := rfl
@[simp] theorem State.takeEdge_diagPhase (s : State) : s.takeEdge.diagPhase = s.diagPhase := rfl
@[simp] theorem State.takeEdge_diagCnt (s : State) : s.takeEdge.diagCnt = s.diagCnt := rfl
@[simp] theorem State.takeEdge_diagTmr (s : State) : s.takeEdge.diagTmr = s.diagTmr := rfl
@[simp] theorem State.takeEdge_diagBuf (s : State) : s.takeEdge.diagBuf = s.diagBuf := rfl
@[simp] theorem State.takeEdge_diagIdx (s : State) : s.takeEdge.diagIdx = s.diagIdx := rfl
@[simp] theorem State.takeEdge_diagBit (s : State) : s.takeEdge.diagBit = s.diagBit := rfl
@[simp] theorem State.takeEdge_subWait (s : State) : s.takeEdge.subWait = s.subWait := rfl
@[simp] theorem State.takeEdge_retWait (s : State) : s.takeEdge.retWait = s.retWait := rfl
@[simp] theorem State.takeEdge_diagOp (s : State) : s.takeEdge.diagOp = s.diagOp := rfl
@[simp] theorem State.takeEdge_diagShift (s : State) : s.takeEdge.diagShift = s.diagShift := rfl
@[simp] theorem State.takeEdge_diagAcc (s : State) : s.takeEdge.diagAcc = s.diagAcc := rfl
@[simp] theorem State.takeEdge_diagFall (s : State) : s.takeEdge.diagFall = s.diagFall := rfl
@[simp] theorem State.takeEdge_hostLock (s : State) : s.takeEdge.hostLock = s.hostLock := rfl
@[simp] theorem State.takeEdge_params (s : State) : s.takeEdge.params = s.params := rfl
@[simp] theorem State.takeEdge_cycle (s : State) : s.takeEdge.cycle = s.cycle := rfl
@[simp] theorem State.takeEdge_inputs (s : State) : s.takeEdge.inputs = s.inputs := rfl
@[simp] theorem State.takeEdge_calls (s : State) : s.takeEdge.calls = s.calls := rfl
@[simp] theorem State.takeEdge_drvTrace (s : State) : s.takeEdge.drvTrace = s.drvTrace := rfl
@[simp] theorem State.takeEdge_events (s : State) : s.takeEdge.events = s.events := rfl
@[simp] theorem State.takeEdge_replies (s : State) : s.takeEdge.replies = s.replies := rfl

/-! ### endReception -/

@[simp] theorem State.endReception_cfgValid (s : State) (e : Event) : (s.endReception e).cfgValid = s.cfgValid := rfl
@[simp] theorem State.endReception_modeAddr (s : State) (e : Event) : (s.endReception e).modeAddr = s.modeAddr := rfl
@[simp] theorem State.endReception_modeCtrl (s : State) (e : Event) : (s.endReception e).modeCtrl = s.modeCtrl := rfl
@[simp] theorem State.endReception_modeRdpol (s : State) (e : Event) :
    (s.endReception e).modeRdpol = s.modeRdpol := rfl
@[simp] theorem State.endReception_modeGrade (s : State) (e : Event) :
    (s.endReception e).modeGrade = s.modeGrade := rfl
@[simp] theorem State.endReception_tpDelta (s : State) (e : Event) : (s.endReception e).tpDelta = s.tpDelta := rfl
@[simp] theorem State.endReception_tpTol (s : State) (e : Event) : (s.endReception e).tpTol = s.tpTol := rfl
@[simp] theorem State.endReception_tpWmin (s : State) (e : Event) : (s.endReception e).tpWmin = s.tpWmin := rfl
@[simp] theorem State.endReception_tpWmax (s : State) (e : Event) : (s.endReception e).tpWmax = s.tpWmax := rfl
@[simp] theorem State.endReception_tpSkew (s : State) (e : Event) : (s.endReception e).tpSkew = s.tpSkew := rfl
@[simp] theorem State.endReception_drvLow (s : State) (e : Event) : (s.endReception e).drvLow = s.drvLow := rfl
@[simp] theorem State.endReception_linePrev (s : State) (e : Event) : (s.endReception e).linePrev = s.linePrev := rfl
@[simp] theorem State.endReception_rxActive (s : State) (e : Event) : (s.endReception e).rxActive = false := rfl
@[simp] theorem State.endReception_rxPhase (s : State) (e : Event) : (s.endReception e).rxPhase = 0 := rfl
@[simp] theorem State.endReception_rxCnt (s : State) (e : Event) : (s.endReception e).rxCnt = s.rxCnt := rfl
@[simp] theorem State.endReception_rxShift (s : State) (e : Event) : (s.endReception e).rxShift = s.rxShift := rfl
@[simp] theorem State.endReception_rxBitidx (s : State) (e : Event) : (s.endReception e).rxBitidx = s.rxBitidx := rfl
@[simp] theorem State.endReception_rxByteidx (s : State) (e : Event) :
    (s.endReception e).rxByteidx = s.rxByteidx := rfl
@[simp] theorem State.endReception_rxLen (s : State) (e : Event) : (s.endReception e).rxLen = s.rxLen := rfl
@[simp] theorem State.endReception_rxBuf (s : State) (e : Event) : (s.endReception e).rxBuf = s.rxBuf := rfl
@[simp] theorem State.endReception_notify (s : State) (e : Event) : (s.endReception e).notify = true := rfl
@[simp] theorem State.endReception_ring (s : State) (e : Event) : (s.endReception e).ring = s.ring := rfl
@[simp] theorem State.endReception_inq (s : State) (e : Event) : (s.endReception e).inq = s.inq := rfl
@[simp] theorem State.endReception_outq (s : State) (e : Event) : (s.endReception e).outq = s.outq := rfl
@[simp] theorem State.endReception_arbState (s : State) (e : Event) : (s.endReception e).arbState = s.arbState := rfl
@[simp] theorem State.endReception_arbSub (s : State) (e : Event) : (s.endReception e).arbSub = s.arbSub := rfl
@[simp] theorem State.endReception_arbCnt (s : State) (e : Event) : (s.endReception e).arbCnt = s.arbCnt := rfl
@[simp] theorem State.endReception_txHeld (s : State) (e : Event) : (s.endReception e).txHeld = s.txHeld := rfl
@[simp] theorem State.endReception_txFrame (s : State) (e : Event) : (s.endReception e).txFrame = s.txFrame := rfl
@[simp] theorem State.endReception_txLen (s : State) (e : Event) : (s.endReception e).txLen = s.txLen := rfl
@[simp] theorem State.endReception_txByteidx (s : State) (e : Event) :
    (s.endReception e).txByteidx = s.txByteidx := rfl
@[simp] theorem State.endReception_txBitidx (s : State) (e : Event) : (s.endReception e).txBitidx = s.txBitidx := rfl
@[simp] theorem State.endReception_rdFrame (s : State) (e : Event) : (s.endReception e).rdFrame = s.rdFrame := rfl
@[simp] theorem State.endReception_rdLen (s : State) (e : Event) : (s.endReception e).rdLen = s.rdLen := rfl
@[simp] theorem State.endReception_statInvariant (s : State) (e : Event) :
    (s.endReception e).statInvariant = s.statInvariant := rfl
@[simp] theorem State.endReception_diagMode (s : State) (e : Event) : (s.endReception e).diagMode = s.diagMode := rfl
@[simp] theorem State.endReception_dsSync (s : State) (e : Event) : (s.endReception e).dsSync = s.dsSync := rfl
@[simp] theorem State.endReception_dsBsh (s : State) (e : Event) : (s.endReception e).dsBsh = s.dsBsh := rfl
@[simp] theorem State.endReception_dsBsl (s : State) (e : Event) : (s.endReception e).dsBsl = s.dsBsl := rfl
@[simp] theorem State.endReception_dsBit0 (s : State) (e : Event) : (s.endReception e).dsBit0 = s.dsBit0 := rfl
@[simp] theorem State.endReception_dsBit1 (s : State) (e : Event) : (s.endReception e).dsBit1 = s.dsBit1 := rfl
@[simp] theorem State.endReception_diagGrade (s : State) (e : Event) :
    (s.endReception e).diagGrade = s.diagGrade := rfl
@[simp] theorem State.endReception_diagViol (s : State) (e : Event) : (s.endReception e).diagViol = s.diagViol := rfl
@[simp] theorem State.endReception_deFall (s : State) (e : Event) : (s.endReception e).deFall = s.deFall := rfl
@[simp] theorem State.endReception_deRise (s : State) (e : Event) : (s.endReception e).deRise = s.deRise := rfl
@[simp] theorem State.endReception_dePeriod (s : State) (e : Event) : (s.endReception e).dePeriod = s.dePeriod := rfl
@[simp] theorem State.endReception_deStatus (s : State) (e : Event) : (s.endReception e).deStatus = s.deStatus := rfl
@[simp] theorem State.endReception_diagYield (s : State) (e : Event) :
    (s.endReception e).diagYield = s.diagYield := rfl
@[simp] theorem State.endReception_diagPhase (s : State) (e : Event) :
    (s.endReception e).diagPhase = s.diagPhase := rfl
@[simp] theorem State.endReception_diagCnt (s : State) (e : Event) : (s.endReception e).diagCnt = s.diagCnt := rfl
@[simp] theorem State.endReception_diagTmr (s : State) (e : Event) : (s.endReception e).diagTmr = s.diagTmr := rfl
@[simp] theorem State.endReception_diagBuf (s : State) (e : Event) : (s.endReception e).diagBuf = s.diagBuf := rfl
@[simp] theorem State.endReception_diagIdx (s : State) (e : Event) : (s.endReception e).diagIdx = s.diagIdx := rfl
@[simp] theorem State.endReception_diagBit (s : State) (e : Event) : (s.endReception e).diagBit = s.diagBit := rfl
@[simp] theorem State.endReception_subWait (s : State) (e : Event) : (s.endReception e).subWait = s.subWait := rfl
@[simp] theorem State.endReception_retWait (s : State) (e : Event) : (s.endReception e).retWait = s.retWait := rfl
@[simp] theorem State.endReception_diagOp (s : State) (e : Event) : (s.endReception e).diagOp = s.diagOp := rfl
@[simp] theorem State.endReception_diagShift (s : State) (e : Event) :
    (s.endReception e).diagShift = s.diagShift := rfl
@[simp] theorem State.endReception_diagAcc (s : State) (e : Event) : (s.endReception e).diagAcc = s.diagAcc := rfl
@[simp] theorem State.endReception_diagFall (s : State) (e : Event) : (s.endReception e).diagFall = s.diagFall := rfl
@[simp] theorem State.endReception_hostLock (s : State) (e : Event) : (s.endReception e).hostLock = s.hostLock := rfl
@[simp] theorem State.endReception_params (s : State) (e : Event) : (s.endReception e).params = s.params := rfl
@[simp] theorem State.endReception_cycle (s : State) (e : Event) : (s.endReception e).cycle = s.cycle := rfl
@[simp] theorem State.endReception_inputs (s : State) (e : Event) : (s.endReception e).inputs = s.inputs := rfl
@[simp] theorem State.endReception_calls (s : State) (e : Event) : (s.endReception e).calls = s.calls := rfl
@[simp] theorem State.endReception_drvTrace (s : State) (e : Event) : (s.endReception e).drvTrace = s.drvTrace := rfl
@[simp] theorem State.endReception_events (s : State) (e : Event) :
    (s.endReception e).events = ⟨s.cycle, e⟩ :: s.events := rfl
@[simp] theorem State.endReception_replies (s : State) (e : Event) : (s.endReception e).replies = s.replies := rfl

/-! ### flagInvariant -/

@[simp] theorem State.flagInvariant_cfgValid (s : State) : s.flagInvariant.cfgValid = s.cfgValid := rfl
@[simp] theorem State.flagInvariant_modeAddr (s : State) : s.flagInvariant.modeAddr = s.modeAddr := rfl
@[simp] theorem State.flagInvariant_modeCtrl (s : State) : s.flagInvariant.modeCtrl = s.modeCtrl := rfl
@[simp] theorem State.flagInvariant_modeRdpol (s : State) : s.flagInvariant.modeRdpol = s.modeRdpol := rfl
@[simp] theorem State.flagInvariant_modeGrade (s : State) : s.flagInvariant.modeGrade = s.modeGrade := rfl
@[simp] theorem State.flagInvariant_tpDelta (s : State) : s.flagInvariant.tpDelta = s.tpDelta := rfl
@[simp] theorem State.flagInvariant_tpTol (s : State) : s.flagInvariant.tpTol = s.tpTol := rfl
@[simp] theorem State.flagInvariant_tpWmin (s : State) : s.flagInvariant.tpWmin = s.tpWmin := rfl
@[simp] theorem State.flagInvariant_tpWmax (s : State) : s.flagInvariant.tpWmax = s.tpWmax := rfl
@[simp] theorem State.flagInvariant_tpSkew (s : State) : s.flagInvariant.tpSkew = s.tpSkew := rfl
@[simp] theorem State.flagInvariant_drvLow (s : State) : s.flagInvariant.drvLow = s.drvLow := rfl
@[simp] theorem State.flagInvariant_linePrev (s : State) : s.flagInvariant.linePrev = s.linePrev := rfl
@[simp] theorem State.flagInvariant_rxActive (s : State) : s.flagInvariant.rxActive = s.rxActive := rfl
@[simp] theorem State.flagInvariant_rxPhase (s : State) : s.flagInvariant.rxPhase = s.rxPhase := rfl
@[simp] theorem State.flagInvariant_rxCnt (s : State) : s.flagInvariant.rxCnt = s.rxCnt := rfl
@[simp] theorem State.flagInvariant_rxShift (s : State) : s.flagInvariant.rxShift = s.rxShift := rfl
@[simp] theorem State.flagInvariant_rxBitidx (s : State) : s.flagInvariant.rxBitidx = s.rxBitidx := rfl
@[simp] theorem State.flagInvariant_rxByteidx (s : State) : s.flagInvariant.rxByteidx = s.rxByteidx := rfl
@[simp] theorem State.flagInvariant_rxLen (s : State) : s.flagInvariant.rxLen = s.rxLen := rfl
@[simp] theorem State.flagInvariant_rxBuf (s : State) : s.flagInvariant.rxBuf = s.rxBuf := rfl
@[simp] theorem State.flagInvariant_notify (s : State) : s.flagInvariant.notify = s.notify := rfl
@[simp] theorem State.flagInvariant_ring (s : State) : s.flagInvariant.ring = s.ring := rfl
@[simp] theorem State.flagInvariant_inq (s : State) : s.flagInvariant.inq = s.inq := rfl
@[simp] theorem State.flagInvariant_outq (s : State) : s.flagInvariant.outq = s.outq := rfl
@[simp] theorem State.flagInvariant_arbState (s : State) : s.flagInvariant.arbState = s.arbState := rfl
@[simp] theorem State.flagInvariant_arbSub (s : State) : s.flagInvariant.arbSub = s.arbSub := rfl
@[simp] theorem State.flagInvariant_arbCnt (s : State) : s.flagInvariant.arbCnt = s.arbCnt := rfl
@[simp] theorem State.flagInvariant_txHeld (s : State) : s.flagInvariant.txHeld = s.txHeld := rfl
@[simp] theorem State.flagInvariant_txFrame (s : State) : s.flagInvariant.txFrame = s.txFrame := rfl
@[simp] theorem State.flagInvariant_txLen (s : State) : s.flagInvariant.txLen = s.txLen := rfl
@[simp] theorem State.flagInvariant_txByteidx (s : State) : s.flagInvariant.txByteidx = s.txByteidx := rfl
@[simp] theorem State.flagInvariant_txBitidx (s : State) : s.flagInvariant.txBitidx = s.txBitidx := rfl
@[simp] theorem State.flagInvariant_rdFrame (s : State) : s.flagInvariant.rdFrame = s.rdFrame := rfl
@[simp] theorem State.flagInvariant_rdLen (s : State) : s.flagInvariant.rdLen = s.rdLen := rfl
@[simp] theorem State.flagInvariant_statInvariant (s : State) : s.flagInvariant.statInvariant = true := rfl
@[simp] theorem State.flagInvariant_diagMode (s : State) : s.flagInvariant.diagMode = s.diagMode := rfl
@[simp] theorem State.flagInvariant_dsSync (s : State) : s.flagInvariant.dsSync = s.dsSync := rfl
@[simp] theorem State.flagInvariant_dsBsh (s : State) : s.flagInvariant.dsBsh = s.dsBsh := rfl
@[simp] theorem State.flagInvariant_dsBsl (s : State) : s.flagInvariant.dsBsl = s.dsBsl := rfl
@[simp] theorem State.flagInvariant_dsBit0 (s : State) : s.flagInvariant.dsBit0 = s.dsBit0 := rfl
@[simp] theorem State.flagInvariant_dsBit1 (s : State) : s.flagInvariant.dsBit1 = s.dsBit1 := rfl
@[simp] theorem State.flagInvariant_diagGrade (s : State) : s.flagInvariant.diagGrade = s.diagGrade := rfl
@[simp] theorem State.flagInvariant_diagViol (s : State) : s.flagInvariant.diagViol = s.diagViol := rfl
@[simp] theorem State.flagInvariant_deFall (s : State) : s.flagInvariant.deFall = s.deFall := rfl
@[simp] theorem State.flagInvariant_deRise (s : State) : s.flagInvariant.deRise = s.deRise := rfl
@[simp] theorem State.flagInvariant_dePeriod (s : State) : s.flagInvariant.dePeriod = s.dePeriod := rfl
@[simp] theorem State.flagInvariant_deStatus (s : State) : s.flagInvariant.deStatus = s.deStatus := rfl
@[simp] theorem State.flagInvariant_diagYield (s : State) : s.flagInvariant.diagYield = s.diagYield := rfl
@[simp] theorem State.flagInvariant_diagPhase (s : State) : s.flagInvariant.diagPhase = s.diagPhase := rfl
@[simp] theorem State.flagInvariant_diagCnt (s : State) : s.flagInvariant.diagCnt = s.diagCnt := rfl
@[simp] theorem State.flagInvariant_diagTmr (s : State) : s.flagInvariant.diagTmr = s.diagTmr := rfl
@[simp] theorem State.flagInvariant_diagBuf (s : State) : s.flagInvariant.diagBuf = s.diagBuf := rfl
@[simp] theorem State.flagInvariant_diagIdx (s : State) : s.flagInvariant.diagIdx = s.diagIdx := rfl
@[simp] theorem State.flagInvariant_diagBit (s : State) : s.flagInvariant.diagBit = s.diagBit := rfl
@[simp] theorem State.flagInvariant_subWait (s : State) : s.flagInvariant.subWait = s.subWait := rfl
@[simp] theorem State.flagInvariant_retWait (s : State) : s.flagInvariant.retWait = s.retWait := rfl
@[simp] theorem State.flagInvariant_diagOp (s : State) : s.flagInvariant.diagOp = s.diagOp := rfl
@[simp] theorem State.flagInvariant_diagShift (s : State) : s.flagInvariant.diagShift = s.diagShift := rfl
@[simp] theorem State.flagInvariant_diagAcc (s : State) : s.flagInvariant.diagAcc = s.diagAcc := rfl
@[simp] theorem State.flagInvariant_diagFall (s : State) : s.flagInvariant.diagFall = s.diagFall := rfl
@[simp] theorem State.flagInvariant_hostLock (s : State) : s.flagInvariant.hostLock = s.hostLock := rfl
@[simp] theorem State.flagInvariant_params (s : State) : s.flagInvariant.params = s.params := rfl
@[simp] theorem State.flagInvariant_cycle (s : State) : s.flagInvariant.cycle = s.cycle := rfl
@[simp] theorem State.flagInvariant_inputs (s : State) : s.flagInvariant.inputs = s.inputs := rfl
@[simp] theorem State.flagInvariant_calls (s : State) : s.flagInvariant.calls = s.calls := rfl
@[simp] theorem State.flagInvariant_drvTrace (s : State) : s.flagInvariant.drvTrace = s.drvTrace := rfl
@[simp] theorem State.flagInvariant_events (s : State) :
    s.flagInvariant.events = ⟨s.cycle, .invariant⟩ :: s.events := rfl
@[simp] theorem State.flagInvariant_replies (s : State) : s.flagInvariant.replies = s.replies := rfl

/-! ### arbGo -/

@[simp] theorem State.arbGo_cfgValid (s : State) (st : BitVec 3) : (s.arbGo st).cfgValid = s.cfgValid := rfl
@[simp] theorem State.arbGo_modeAddr (s : State) (st : BitVec 3) : (s.arbGo st).modeAddr = s.modeAddr := rfl
@[simp] theorem State.arbGo_modeCtrl (s : State) (st : BitVec 3) : (s.arbGo st).modeCtrl = s.modeCtrl := rfl
@[simp] theorem State.arbGo_modeRdpol (s : State) (st : BitVec 3) : (s.arbGo st).modeRdpol = s.modeRdpol := rfl
@[simp] theorem State.arbGo_modeGrade (s : State) (st : BitVec 3) : (s.arbGo st).modeGrade = s.modeGrade := rfl
@[simp] theorem State.arbGo_tpDelta (s : State) (st : BitVec 3) : (s.arbGo st).tpDelta = s.tpDelta := rfl
@[simp] theorem State.arbGo_tpTol (s : State) (st : BitVec 3) : (s.arbGo st).tpTol = s.tpTol := rfl
@[simp] theorem State.arbGo_tpWmin (s : State) (st : BitVec 3) : (s.arbGo st).tpWmin = s.tpWmin := rfl
@[simp] theorem State.arbGo_tpWmax (s : State) (st : BitVec 3) : (s.arbGo st).tpWmax = s.tpWmax := rfl
@[simp] theorem State.arbGo_tpSkew (s : State) (st : BitVec 3) : (s.arbGo st).tpSkew = s.tpSkew := rfl
@[simp] theorem State.arbGo_drvLow (s : State) (st : BitVec 3) : (s.arbGo st).drvLow = s.drvLow := rfl
@[simp] theorem State.arbGo_linePrev (s : State) (st : BitVec 3) : (s.arbGo st).linePrev = s.linePrev := rfl
@[simp] theorem State.arbGo_rxActive (s : State) (st : BitVec 3) : (s.arbGo st).rxActive = s.rxActive := rfl
@[simp] theorem State.arbGo_rxPhase (s : State) (st : BitVec 3) : (s.arbGo st).rxPhase = s.rxPhase := rfl
@[simp] theorem State.arbGo_rxCnt (s : State) (st : BitVec 3) : (s.arbGo st).rxCnt = s.rxCnt := rfl
@[simp] theorem State.arbGo_rxShift (s : State) (st : BitVec 3) : (s.arbGo st).rxShift = s.rxShift := rfl
@[simp] theorem State.arbGo_rxBitidx (s : State) (st : BitVec 3) : (s.arbGo st).rxBitidx = s.rxBitidx := rfl
@[simp] theorem State.arbGo_rxByteidx (s : State) (st : BitVec 3) : (s.arbGo st).rxByteidx = s.rxByteidx := rfl
@[simp] theorem State.arbGo_rxLen (s : State) (st : BitVec 3) : (s.arbGo st).rxLen = s.rxLen := rfl
@[simp] theorem State.arbGo_rxBuf (s : State) (st : BitVec 3) : (s.arbGo st).rxBuf = s.rxBuf := rfl
@[simp] theorem State.arbGo_notify (s : State) (st : BitVec 3) : (s.arbGo st).notify = s.notify := rfl
@[simp] theorem State.arbGo_ring (s : State) (st : BitVec 3) : (s.arbGo st).ring = s.ring := rfl
@[simp] theorem State.arbGo_inq (s : State) (st : BitVec 3) : (s.arbGo st).inq = s.inq := rfl
@[simp] theorem State.arbGo_outq (s : State) (st : BitVec 3) : (s.arbGo st).outq = s.outq := rfl
@[simp] theorem State.arbGo_arbState (s : State) (st : BitVec 3) : (s.arbGo st).arbState = st := rfl
@[simp] theorem State.arbGo_arbSub (s : State) (st : BitVec 3) : (s.arbGo st).arbSub = 0 := rfl
@[simp] theorem State.arbGo_arbCnt (s : State) (st : BitVec 3) : (s.arbGo st).arbCnt = s.arbCnt := rfl
@[simp] theorem State.arbGo_txHeld (s : State) (st : BitVec 3) : (s.arbGo st).txHeld = s.txHeld := rfl
@[simp] theorem State.arbGo_txFrame (s : State) (st : BitVec 3) : (s.arbGo st).txFrame = s.txFrame := rfl
@[simp] theorem State.arbGo_txLen (s : State) (st : BitVec 3) : (s.arbGo st).txLen = s.txLen := rfl
@[simp] theorem State.arbGo_txByteidx (s : State) (st : BitVec 3) : (s.arbGo st).txByteidx = s.txByteidx := rfl
@[simp] theorem State.arbGo_txBitidx (s : State) (st : BitVec 3) : (s.arbGo st).txBitidx = s.txBitidx := rfl
@[simp] theorem State.arbGo_rdFrame (s : State) (st : BitVec 3) : (s.arbGo st).rdFrame = s.rdFrame := rfl
@[simp] theorem State.arbGo_rdLen (s : State) (st : BitVec 3) : (s.arbGo st).rdLen = s.rdLen := rfl
@[simp] theorem State.arbGo_statInvariant (s : State) (st : BitVec 3) :
    (s.arbGo st).statInvariant = s.statInvariant := rfl
@[simp] theorem State.arbGo_diagMode (s : State) (st : BitVec 3) : (s.arbGo st).diagMode = s.diagMode := rfl
@[simp] theorem State.arbGo_dsSync (s : State) (st : BitVec 3) : (s.arbGo st).dsSync = s.dsSync := rfl
@[simp] theorem State.arbGo_dsBsh (s : State) (st : BitVec 3) : (s.arbGo st).dsBsh = s.dsBsh := rfl
@[simp] theorem State.arbGo_dsBsl (s : State) (st : BitVec 3) : (s.arbGo st).dsBsl = s.dsBsl := rfl
@[simp] theorem State.arbGo_dsBit0 (s : State) (st : BitVec 3) : (s.arbGo st).dsBit0 = s.dsBit0 := rfl
@[simp] theorem State.arbGo_dsBit1 (s : State) (st : BitVec 3) : (s.arbGo st).dsBit1 = s.dsBit1 := rfl
@[simp] theorem State.arbGo_diagGrade (s : State) (st : BitVec 3) : (s.arbGo st).diagGrade = s.diagGrade := rfl
@[simp] theorem State.arbGo_diagViol (s : State) (st : BitVec 3) : (s.arbGo st).diagViol = s.diagViol := rfl
@[simp] theorem State.arbGo_deFall (s : State) (st : BitVec 3) : (s.arbGo st).deFall = s.deFall := rfl
@[simp] theorem State.arbGo_deRise (s : State) (st : BitVec 3) : (s.arbGo st).deRise = s.deRise := rfl
@[simp] theorem State.arbGo_dePeriod (s : State) (st : BitVec 3) : (s.arbGo st).dePeriod = s.dePeriod := rfl
@[simp] theorem State.arbGo_deStatus (s : State) (st : BitVec 3) : (s.arbGo st).deStatus = s.deStatus := rfl
@[simp] theorem State.arbGo_diagYield (s : State) (st : BitVec 3) : (s.arbGo st).diagYield = s.diagYield := rfl
@[simp] theorem State.arbGo_diagPhase (s : State) (st : BitVec 3) : (s.arbGo st).diagPhase = s.diagPhase := rfl
@[simp] theorem State.arbGo_diagCnt (s : State) (st : BitVec 3) : (s.arbGo st).diagCnt = s.diagCnt := rfl
@[simp] theorem State.arbGo_diagTmr (s : State) (st : BitVec 3) : (s.arbGo st).diagTmr = s.diagTmr := rfl
@[simp] theorem State.arbGo_diagBuf (s : State) (st : BitVec 3) : (s.arbGo st).diagBuf = s.diagBuf := rfl
@[simp] theorem State.arbGo_diagIdx (s : State) (st : BitVec 3) : (s.arbGo st).diagIdx = s.diagIdx := rfl
@[simp] theorem State.arbGo_diagBit (s : State) (st : BitVec 3) : (s.arbGo st).diagBit = s.diagBit := rfl
@[simp] theorem State.arbGo_subWait (s : State) (st : BitVec 3) : (s.arbGo st).subWait = s.subWait := rfl
@[simp] theorem State.arbGo_retWait (s : State) (st : BitVec 3) : (s.arbGo st).retWait = s.retWait := rfl
@[simp] theorem State.arbGo_diagOp (s : State) (st : BitVec 3) : (s.arbGo st).diagOp = s.diagOp := rfl
@[simp] theorem State.arbGo_diagShift (s : State) (st : BitVec 3) : (s.arbGo st).diagShift = s.diagShift := rfl
@[simp] theorem State.arbGo_diagAcc (s : State) (st : BitVec 3) : (s.arbGo st).diagAcc = s.diagAcc := rfl
@[simp] theorem State.arbGo_diagFall (s : State) (st : BitVec 3) : (s.arbGo st).diagFall = s.diagFall := rfl
@[simp] theorem State.arbGo_hostLock (s : State) (st : BitVec 3) : (s.arbGo st).hostLock = s.hostLock := rfl
@[simp] theorem State.arbGo_params (s : State) (st : BitVec 3) : (s.arbGo st).params = s.params := rfl
@[simp] theorem State.arbGo_cycle (s : State) (st : BitVec 3) : (s.arbGo st).cycle = s.cycle := rfl
@[simp] theorem State.arbGo_inputs (s : State) (st : BitVec 3) : (s.arbGo st).inputs = s.inputs := rfl
@[simp] theorem State.arbGo_calls (s : State) (st : BitVec 3) : (s.arbGo st).calls = s.calls := rfl
@[simp] theorem State.arbGo_drvTrace (s : State) (st : BitVec 3) : (s.arbGo st).drvTrace = s.drvTrace := rfl
@[simp] theorem State.arbGo_events (s : State) (st : BitVec 3) : (s.arbGo st).events = s.events := rfl
@[simp] theorem State.arbGo_replies (s : State) (st : BitVec 3) : (s.arbGo st).replies = s.replies := rfl

/-! ### endProbe -/

@[simp] theorem State.endProbe_cfgValid (s : State) (p : Probe) (st : Status) :
    (s.endProbe p st).cfgValid = s.cfgValid := rfl
@[simp] theorem State.endProbe_modeAddr (s : State) (p : Probe) (st : Status) :
    (s.endProbe p st).modeAddr = s.modeAddr := rfl
@[simp] theorem State.endProbe_modeCtrl (s : State) (p : Probe) (st : Status) :
    (s.endProbe p st).modeCtrl = s.modeCtrl := rfl
@[simp] theorem State.endProbe_modeRdpol (s : State) (p : Probe) (st : Status) :
    (s.endProbe p st).modeRdpol = s.modeRdpol := rfl
@[simp] theorem State.endProbe_modeGrade (s : State) (p : Probe) (st : Status) :
    (s.endProbe p st).modeGrade = s.modeGrade := rfl
@[simp] theorem State.endProbe_tpDelta (s : State) (p : Probe) (st : Status) :
    (s.endProbe p st).tpDelta = s.tpDelta := rfl
@[simp] theorem State.endProbe_tpTol (s : State) (p : Probe) (st : Status) : (s.endProbe p st).tpTol = s.tpTol := rfl
@[simp] theorem State.endProbe_tpWmin (s : State) (p : Probe) (st : Status) :
    (s.endProbe p st).tpWmin = s.tpWmin := rfl
@[simp] theorem State.endProbe_tpWmax (s : State) (p : Probe) (st : Status) :
    (s.endProbe p st).tpWmax = s.tpWmax := rfl
@[simp] theorem State.endProbe_tpSkew (s : State) (p : Probe) (st : Status) :
    (s.endProbe p st).tpSkew = s.tpSkew := rfl
@[simp] theorem State.endProbe_drvLow (s : State) (p : Probe) (st : Status) : (s.endProbe p st).drvLow = false := rfl
@[simp] theorem State.endProbe_linePrev (s : State) (p : Probe) (st : Status) :
    (s.endProbe p st).linePrev = s.linePrev := rfl
@[simp] theorem State.endProbe_rxActive (s : State) (p : Probe) (st : Status) :
    (s.endProbe p st).rxActive = s.rxActive := rfl
@[simp] theorem State.endProbe_rxPhase (s : State) (p : Probe) (st : Status) :
    (s.endProbe p st).rxPhase = s.rxPhase := rfl
@[simp] theorem State.endProbe_rxCnt (s : State) (p : Probe) (st : Status) : (s.endProbe p st).rxCnt = s.rxCnt := rfl
@[simp] theorem State.endProbe_rxShift (s : State) (p : Probe) (st : Status) :
    (s.endProbe p st).rxShift = s.rxShift := rfl
@[simp] theorem State.endProbe_rxBitidx (s : State) (p : Probe) (st : Status) :
    (s.endProbe p st).rxBitidx = s.rxBitidx := rfl
@[simp] theorem State.endProbe_rxByteidx (s : State) (p : Probe) (st : Status) :
    (s.endProbe p st).rxByteidx = s.rxByteidx := rfl
@[simp] theorem State.endProbe_rxLen (s : State) (p : Probe) (st : Status) : (s.endProbe p st).rxLen = s.rxLen := rfl
@[simp] theorem State.endProbe_rxBuf (s : State) (p : Probe) (st : Status) : (s.endProbe p st).rxBuf = s.rxBuf := rfl
@[simp] theorem State.endProbe_notify (s : State) (p : Probe) (st : Status) :
    (s.endProbe p st).notify = s.notify := rfl
@[simp] theorem State.endProbe_ring (s : State) (p : Probe) (st : Status) : (s.endProbe p st).ring = s.ring := rfl
@[simp] theorem State.endProbe_inq (s : State) (p : Probe) (st : Status) : (s.endProbe p st).inq = s.inq := rfl
@[simp] theorem State.endProbe_outq (s : State) (p : Probe) (st : Status) : (s.endProbe p st).outq = s.outq := rfl
@[simp] theorem State.endProbe_arbState (s : State) (p : Probe) (st : Status) :
    (s.endProbe p st).arbState = s.arbState := rfl
@[simp] theorem State.endProbe_arbSub (s : State) (p : Probe) (st : Status) :
    (s.endProbe p st).arbSub = s.arbSub := rfl
@[simp] theorem State.endProbe_arbCnt (s : State) (p : Probe) (st : Status) :
    (s.endProbe p st).arbCnt = s.arbCnt := rfl
@[simp] theorem State.endProbe_txHeld (s : State) (p : Probe) (st : Status) :
    (s.endProbe p st).txHeld = s.txHeld := rfl
@[simp] theorem State.endProbe_txFrame (s : State) (p : Probe) (st : Status) :
    (s.endProbe p st).txFrame = s.txFrame := rfl
@[simp] theorem State.endProbe_txLen (s : State) (p : Probe) (st : Status) : (s.endProbe p st).txLen = s.txLen := rfl
@[simp] theorem State.endProbe_txByteidx (s : State) (p : Probe) (st : Status) :
    (s.endProbe p st).txByteidx = s.txByteidx := rfl
@[simp] theorem State.endProbe_txBitidx (s : State) (p : Probe) (st : Status) :
    (s.endProbe p st).txBitidx = s.txBitidx := rfl
@[simp] theorem State.endProbe_rdFrame (s : State) (p : Probe) (st : Status) :
    (s.endProbe p st).rdFrame = s.rdFrame := rfl
@[simp] theorem State.endProbe_rdLen (s : State) (p : Probe) (st : Status) : (s.endProbe p st).rdLen = s.rdLen := rfl
@[simp] theorem State.endProbe_statInvariant (s : State) (p : Probe) (st : Status) :
    (s.endProbe p st).statInvariant = s.statInvariant := rfl
@[simp] theorem State.endProbe_diagMode (s : State) (p : Probe) (st : Status) :
    (s.endProbe p st).diagMode = false := rfl
@[simp] theorem State.endProbe_dsSync (s : State) (p : Probe) (st : Status) :
    (s.endProbe p st).dsSync = s.dsSync := rfl
@[simp] theorem State.endProbe_dsBsh (s : State) (p : Probe) (st : Status) : (s.endProbe p st).dsBsh = s.dsBsh := rfl
@[simp] theorem State.endProbe_dsBsl (s : State) (p : Probe) (st : Status) : (s.endProbe p st).dsBsl = s.dsBsl := rfl
@[simp] theorem State.endProbe_dsBit0 (s : State) (p : Probe) (st : Status) :
    (s.endProbe p st).dsBit0 = s.dsBit0 := rfl
@[simp] theorem State.endProbe_dsBit1 (s : State) (p : Probe) (st : Status) :
    (s.endProbe p st).dsBit1 = s.dsBit1 := rfl
@[simp] theorem State.endProbe_diagGrade (s : State) (p : Probe) (st : Status) :
    (s.endProbe p st).diagGrade = s.diagGrade := rfl
@[simp] theorem State.endProbe_diagViol (s : State) (p : Probe) (st : Status) :
    (s.endProbe p st).diagViol = s.diagViol := rfl
@[simp] theorem State.endProbe_deFall (s : State) (p : Probe) (st : Status) :
    (s.endProbe p st).deFall = s.deFall := rfl
@[simp] theorem State.endProbe_deRise (s : State) (p : Probe) (st : Status) :
    (s.endProbe p st).deRise = s.deRise := rfl
@[simp] theorem State.endProbe_dePeriod (s : State) (p : Probe) (st : Status) :
    (s.endProbe p st).dePeriod = s.dePeriod := rfl
@[simp] theorem State.endProbe_deStatus (s : State) (p : Probe) (st : Status) :
    (s.endProbe p st).deStatus = s.deStatus := rfl
@[simp] theorem State.endProbe_diagYield (s : State) (p : Probe) (st : Status) :
    (s.endProbe p st).diagYield = s.diagYield := rfl
@[simp] theorem State.endProbe_diagPhase (s : State) (p : Probe) (st : Status) :
    (s.endProbe p st).diagPhase = 0 := rfl
@[simp] theorem State.endProbe_diagCnt (s : State) (p : Probe) (st : Status) :
    (s.endProbe p st).diagCnt = s.diagCnt := rfl
@[simp] theorem State.endProbe_diagTmr (s : State) (p : Probe) (st : Status) :
    (s.endProbe p st).diagTmr = s.diagTmr := rfl
@[simp] theorem State.endProbe_diagBuf (s : State) (p : Probe) (st : Status) :
    (s.endProbe p st).diagBuf = s.diagBuf := rfl
@[simp] theorem State.endProbe_diagIdx (s : State) (p : Probe) (st : Status) :
    (s.endProbe p st).diagIdx = s.diagIdx := rfl
@[simp] theorem State.endProbe_diagBit (s : State) (p : Probe) (st : Status) :
    (s.endProbe p st).diagBit = s.diagBit := rfl
@[simp] theorem State.endProbe_subWait (s : State) (p : Probe) (st : Status) :
    (s.endProbe p st).subWait = s.subWait := rfl
@[simp] theorem State.endProbe_retWait (s : State) (p : Probe) (st : Status) :
    (s.endProbe p st).retWait = s.retWait := rfl
@[simp] theorem State.endProbe_diagOp (s : State) (p : Probe) (st : Status) : (s.endProbe p st).diagOp = none := rfl
@[simp] theorem State.endProbe_diagShift (s : State) (p : Probe) (st : Status) :
    (s.endProbe p st).diagShift = s.diagShift := rfl
@[simp] theorem State.endProbe_diagAcc (s : State) (p : Probe) (st : Status) :
    (s.endProbe p st).diagAcc = s.diagAcc := rfl
@[simp] theorem State.endProbe_diagFall (s : State) (p : Probe) (st : Status) :
    (s.endProbe p st).diagFall = s.diagFall := rfl
@[simp] theorem State.endProbe_hostLock (s : State) (p : Probe) (st : Status) :
    (s.endProbe p st).hostLock = s.hostLock := rfl
@[simp] theorem State.endProbe_params (s : State) (p : Probe) (st : Status) :
    (s.endProbe p st).params = s.params := rfl
@[simp] theorem State.endProbe_cycle (s : State) (p : Probe) (st : Status) : (s.endProbe p st).cycle = s.cycle := rfl
@[simp] theorem State.endProbe_inputs (s : State) (p : Probe) (st : Status) :
    (s.endProbe p st).inputs = s.inputs := rfl
@[simp] theorem State.endProbe_calls (s : State) (p : Probe) (st : Status) : (s.endProbe p st).calls = s.calls := rfl
@[simp] theorem State.endProbe_drvTrace (s : State) (p : Probe) (st : Status) :
    (s.endProbe p st).drvTrace = s.drvTrace := rfl
@[simp] theorem State.endProbe_events (s : State) (p : Probe) (st : Status) :
    (s.endProbe p st).events = ⟨s.cycle, .diagDone p st⟩ :: s.events := rfl
@[simp] theorem State.endProbe_replies (s : State) (p : Probe) (st : Status) :
    (s.endProbe p st).replies = ⟨s.cycle, p.opId, .status st⟩ :: s.replies := rfl

/-! ### diagGo -/

@[simp] theorem State.diagGo_cfgValid (s0 s : State) (ph : BitVec 4) (n : Nat) :
    (State.diagGo s0 s ph n).cfgValid = s.cfgValid := rfl
@[simp] theorem State.diagGo_modeAddr (s0 s : State) (ph : BitVec 4) (n : Nat) :
    (State.diagGo s0 s ph n).modeAddr = s.modeAddr := rfl
@[simp] theorem State.diagGo_modeCtrl (s0 s : State) (ph : BitVec 4) (n : Nat) :
    (State.diagGo s0 s ph n).modeCtrl = s.modeCtrl := rfl
@[simp] theorem State.diagGo_modeRdpol (s0 s : State) (ph : BitVec 4) (n : Nat) :
    (State.diagGo s0 s ph n).modeRdpol = s.modeRdpol := rfl
@[simp] theorem State.diagGo_modeGrade (s0 s : State) (ph : BitVec 4) (n : Nat) :
    (State.diagGo s0 s ph n).modeGrade = s.modeGrade := rfl
@[simp] theorem State.diagGo_tpDelta (s0 s : State) (ph : BitVec 4) (n : Nat) :
    (State.diagGo s0 s ph n).tpDelta = s.tpDelta := rfl
@[simp] theorem State.diagGo_tpTol (s0 s : State) (ph : BitVec 4) (n : Nat) :
    (State.diagGo s0 s ph n).tpTol = s.tpTol := rfl
@[simp] theorem State.diagGo_tpWmin (s0 s : State) (ph : BitVec 4) (n : Nat) :
    (State.diagGo s0 s ph n).tpWmin = s.tpWmin := rfl
@[simp] theorem State.diagGo_tpWmax (s0 s : State) (ph : BitVec 4) (n : Nat) :
    (State.diagGo s0 s ph n).tpWmax = s.tpWmax := rfl
@[simp] theorem State.diagGo_tpSkew (s0 s : State) (ph : BitVec 4) (n : Nat) :
    (State.diagGo s0 s ph n).tpSkew = s.tpSkew := rfl
@[simp] theorem State.diagGo_drvLow (s0 s : State) (ph : BitVec 4) (n : Nat) :
    (State.diagGo s0 s ph n).drvLow = s.drvLow := rfl
@[simp] theorem State.diagGo_linePrev (s0 s : State) (ph : BitVec 4) (n : Nat) :
    (State.diagGo s0 s ph n).linePrev = s.linePrev := rfl
@[simp] theorem State.diagGo_rxActive (s0 s : State) (ph : BitVec 4) (n : Nat) :
    (State.diagGo s0 s ph n).rxActive = s.rxActive := rfl
@[simp] theorem State.diagGo_rxPhase (s0 s : State) (ph : BitVec 4) (n : Nat) :
    (State.diagGo s0 s ph n).rxPhase = s.rxPhase := rfl
@[simp] theorem State.diagGo_rxCnt (s0 s : State) (ph : BitVec 4) (n : Nat) :
    (State.diagGo s0 s ph n).rxCnt = s.rxCnt := rfl
@[simp] theorem State.diagGo_rxShift (s0 s : State) (ph : BitVec 4) (n : Nat) :
    (State.diagGo s0 s ph n).rxShift = s.rxShift := rfl
@[simp] theorem State.diagGo_rxBitidx (s0 s : State) (ph : BitVec 4) (n : Nat) :
    (State.diagGo s0 s ph n).rxBitidx = s.rxBitidx := rfl
@[simp] theorem State.diagGo_rxByteidx (s0 s : State) (ph : BitVec 4) (n : Nat) :
    (State.diagGo s0 s ph n).rxByteidx = s.rxByteidx := rfl
@[simp] theorem State.diagGo_rxLen (s0 s : State) (ph : BitVec 4) (n : Nat) :
    (State.diagGo s0 s ph n).rxLen = s.rxLen := rfl
@[simp] theorem State.diagGo_rxBuf (s0 s : State) (ph : BitVec 4) (n : Nat) :
    (State.diagGo s0 s ph n).rxBuf = s.rxBuf := rfl
@[simp] theorem State.diagGo_notify (s0 s : State) (ph : BitVec 4) (n : Nat) :
    (State.diagGo s0 s ph n).notify = s.notify := rfl
@[simp] theorem State.diagGo_ring (s0 s : State) (ph : BitVec 4) (n : Nat) :
    (State.diagGo s0 s ph n).ring = s.ring := rfl
@[simp] theorem State.diagGo_inq (s0 s : State) (ph : BitVec 4) (n : Nat) :
    (State.diagGo s0 s ph n).inq = s.inq := rfl
@[simp] theorem State.diagGo_outq (s0 s : State) (ph : BitVec 4) (n : Nat) :
    (State.diagGo s0 s ph n).outq = s.outq := rfl
@[simp] theorem State.diagGo_arbState (s0 s : State) (ph : BitVec 4) (n : Nat) :
    (State.diagGo s0 s ph n).arbState = s.arbState := rfl
@[simp] theorem State.diagGo_arbSub (s0 s : State) (ph : BitVec 4) (n : Nat) :
    (State.diagGo s0 s ph n).arbSub = s.arbSub := rfl
@[simp] theorem State.diagGo_arbCnt (s0 s : State) (ph : BitVec 4) (n : Nat) :
    (State.diagGo s0 s ph n).arbCnt = s.arbCnt := rfl
@[simp] theorem State.diagGo_txHeld (s0 s : State) (ph : BitVec 4) (n : Nat) :
    (State.diagGo s0 s ph n).txHeld = s.txHeld := rfl
@[simp] theorem State.diagGo_txFrame (s0 s : State) (ph : BitVec 4) (n : Nat) :
    (State.diagGo s0 s ph n).txFrame = s.txFrame := rfl
@[simp] theorem State.diagGo_txLen (s0 s : State) (ph : BitVec 4) (n : Nat) :
    (State.diagGo s0 s ph n).txLen = s.txLen := rfl
@[simp] theorem State.diagGo_txByteidx (s0 s : State) (ph : BitVec 4) (n : Nat) :
    (State.diagGo s0 s ph n).txByteidx = s.txByteidx := rfl
@[simp] theorem State.diagGo_txBitidx (s0 s : State) (ph : BitVec 4) (n : Nat) :
    (State.diagGo s0 s ph n).txBitidx = s.txBitidx := rfl
@[simp] theorem State.diagGo_rdFrame (s0 s : State) (ph : BitVec 4) (n : Nat) :
    (State.diagGo s0 s ph n).rdFrame = s.rdFrame := rfl
@[simp] theorem State.diagGo_rdLen (s0 s : State) (ph : BitVec 4) (n : Nat) :
    (State.diagGo s0 s ph n).rdLen = s.rdLen := rfl
@[simp] theorem State.diagGo_statInvariant (s0 s : State) (ph : BitVec 4) (n : Nat) :
    (State.diagGo s0 s ph n).statInvariant = s.statInvariant := rfl
@[simp] theorem State.diagGo_diagMode (s0 s : State) (ph : BitVec 4) (n : Nat) :
    (State.diagGo s0 s ph n).diagMode = s.diagMode := rfl
@[simp] theorem State.diagGo_dsSync (s0 s : State) (ph : BitVec 4) (n : Nat) :
    (State.diagGo s0 s ph n).dsSync = s.dsSync := rfl
@[simp] theorem State.diagGo_dsBsh (s0 s : State) (ph : BitVec 4) (n : Nat) :
    (State.diagGo s0 s ph n).dsBsh = s.dsBsh := rfl
@[simp] theorem State.diagGo_dsBsl (s0 s : State) (ph : BitVec 4) (n : Nat) :
    (State.diagGo s0 s ph n).dsBsl = s.dsBsl := rfl
@[simp] theorem State.diagGo_dsBit0 (s0 s : State) (ph : BitVec 4) (n : Nat) :
    (State.diagGo s0 s ph n).dsBit0 = s.dsBit0 := rfl
@[simp] theorem State.diagGo_dsBit1 (s0 s : State) (ph : BitVec 4) (n : Nat) :
    (State.diagGo s0 s ph n).dsBit1 = s.dsBit1 := rfl
@[simp] theorem State.diagGo_diagGrade (s0 s : State) (ph : BitVec 4) (n : Nat) :
    (State.diagGo s0 s ph n).diagGrade = s.diagGrade := rfl
@[simp] theorem State.diagGo_diagViol (s0 s : State) (ph : BitVec 4) (n : Nat) :
    (State.diagGo s0 s ph n).diagViol = s.diagViol := rfl
@[simp] theorem State.diagGo_deFall (s0 s : State) (ph : BitVec 4) (n : Nat) :
    (State.diagGo s0 s ph n).deFall = s.deFall := rfl
@[simp] theorem State.diagGo_deRise (s0 s : State) (ph : BitVec 4) (n : Nat) :
    (State.diagGo s0 s ph n).deRise = s.deRise := rfl
@[simp] theorem State.diagGo_dePeriod (s0 s : State) (ph : BitVec 4) (n : Nat) :
    (State.diagGo s0 s ph n).dePeriod = s.dePeriod := rfl
@[simp] theorem State.diagGo_deStatus (s0 s : State) (ph : BitVec 4) (n : Nat) :
    (State.diagGo s0 s ph n).deStatus = s.deStatus := rfl
@[simp] theorem State.diagGo_diagYield (s0 s : State) (ph : BitVec 4) (n : Nat) :
    (State.diagGo s0 s ph n).diagYield = s.diagYield := rfl
@[simp] theorem State.diagGo_diagPhase (s0 s : State) (ph : BitVec 4) (n : Nat) :
    (State.diagGo s0 s ph n).diagPhase = ph := rfl
@[simp] theorem State.diagGo_diagCnt (s0 s : State) (ph : BitVec 4) (n : Nat) :
    (State.diagGo s0 s ph n).diagCnt = count n := rfl
@[simp] theorem State.diagGo_diagTmr (s0 s : State) (ph : BitVec 4) (n : Nat) :
    (State.diagGo s0 s ph n).diagTmr = s0.diagTmr - 1 := rfl
@[simp] theorem State.diagGo_diagBuf (s0 s : State) (ph : BitVec 4) (n : Nat) :
    (State.diagGo s0 s ph n).diagBuf = s.diagBuf := rfl
@[simp] theorem State.diagGo_diagIdx (s0 s : State) (ph : BitVec 4) (n : Nat) :
    (State.diagGo s0 s ph n).diagIdx = s.diagIdx := rfl
@[simp] theorem State.diagGo_diagBit (s0 s : State) (ph : BitVec 4) (n : Nat) :
    (State.diagGo s0 s ph n).diagBit = s.diagBit := rfl
@[simp] theorem State.diagGo_subWait (s0 s : State) (ph : BitVec 4) (n : Nat) :
    (State.diagGo s0 s ph n).subWait = s.subWait := rfl
@[simp] theorem State.diagGo_retWait (s0 s : State) (ph : BitVec 4) (n : Nat) :
    (State.diagGo s0 s ph n).retWait = s.retWait := rfl
@[simp] theorem State.diagGo_diagOp (s0 s : State) (ph : BitVec 4) (n : Nat) :
    (State.diagGo s0 s ph n).diagOp = s.diagOp := rfl
@[simp] theorem State.diagGo_diagShift (s0 s : State) (ph : BitVec 4) (n : Nat) :
    (State.diagGo s0 s ph n).diagShift = s.diagShift := rfl
@[simp] theorem State.diagGo_diagAcc (s0 s : State) (ph : BitVec 4) (n : Nat) :
    (State.diagGo s0 s ph n).diagAcc = s.diagAcc := rfl
@[simp] theorem State.diagGo_diagFall (s0 s : State) (ph : BitVec 4) (n : Nat) :
    (State.diagGo s0 s ph n).diagFall = s.diagFall := rfl
@[simp] theorem State.diagGo_hostLock (s0 s : State) (ph : BitVec 4) (n : Nat) :
    (State.diagGo s0 s ph n).hostLock = s.hostLock := rfl
@[simp] theorem State.diagGo_params (s0 s : State) (ph : BitVec 4) (n : Nat) :
    (State.diagGo s0 s ph n).params = s.params := rfl
@[simp] theorem State.diagGo_cycle (s0 s : State) (ph : BitVec 4) (n : Nat) :
    (State.diagGo s0 s ph n).cycle = s.cycle := rfl
@[simp] theorem State.diagGo_inputs (s0 s : State) (ph : BitVec 4) (n : Nat) :
    (State.diagGo s0 s ph n).inputs = s.inputs := rfl
@[simp] theorem State.diagGo_calls (s0 s : State) (ph : BitVec 4) (n : Nat) :
    (State.diagGo s0 s ph n).calls = s.calls := rfl
@[simp] theorem State.diagGo_drvTrace (s0 s : State) (ph : BitVec 4) (n : Nat) :
    (State.diagGo s0 s ph n).drvTrace = s.drvTrace := rfl
@[simp] theorem State.diagGo_events (s0 s : State) (ph : BitVec 4) (n : Nat) :
    (State.diagGo s0 s ph n).events = s.events := rfl
@[simp] theorem State.diagGo_replies (s0 s : State) (ph : BitVec 4) (n : Nat) :
    (State.diagGo s0 s ph n).replies = s.replies := rfl

/-! ### diagCount -/

@[simp] theorem State.diagCount_cfgValid (s0 s : State) : (State.diagCount s0 s).cfgValid = s.cfgValid := rfl
@[simp] theorem State.diagCount_modeAddr (s0 s : State) : (State.diagCount s0 s).modeAddr = s.modeAddr := rfl
@[simp] theorem State.diagCount_modeCtrl (s0 s : State) : (State.diagCount s0 s).modeCtrl = s.modeCtrl := rfl
@[simp] theorem State.diagCount_modeRdpol (s0 s : State) : (State.diagCount s0 s).modeRdpol = s.modeRdpol := rfl
@[simp] theorem State.diagCount_modeGrade (s0 s : State) : (State.diagCount s0 s).modeGrade = s.modeGrade := rfl
@[simp] theorem State.diagCount_tpDelta (s0 s : State) : (State.diagCount s0 s).tpDelta = s.tpDelta := rfl
@[simp] theorem State.diagCount_tpTol (s0 s : State) : (State.diagCount s0 s).tpTol = s.tpTol := rfl
@[simp] theorem State.diagCount_tpWmin (s0 s : State) : (State.diagCount s0 s).tpWmin = s.tpWmin := rfl
@[simp] theorem State.diagCount_tpWmax (s0 s : State) : (State.diagCount s0 s).tpWmax = s.tpWmax := rfl
@[simp] theorem State.diagCount_tpSkew (s0 s : State) : (State.diagCount s0 s).tpSkew = s.tpSkew := rfl
@[simp] theorem State.diagCount_drvLow (s0 s : State) : (State.diagCount s0 s).drvLow = s.drvLow := rfl
@[simp] theorem State.diagCount_linePrev (s0 s : State) : (State.diagCount s0 s).linePrev = s.linePrev := rfl
@[simp] theorem State.diagCount_rxActive (s0 s : State) : (State.diagCount s0 s).rxActive = s.rxActive := rfl
@[simp] theorem State.diagCount_rxPhase (s0 s : State) : (State.diagCount s0 s).rxPhase = s.rxPhase := rfl
@[simp] theorem State.diagCount_rxCnt (s0 s : State) : (State.diagCount s0 s).rxCnt = s.rxCnt := rfl
@[simp] theorem State.diagCount_rxShift (s0 s : State) : (State.diagCount s0 s).rxShift = s.rxShift := rfl
@[simp] theorem State.diagCount_rxBitidx (s0 s : State) : (State.diagCount s0 s).rxBitidx = s.rxBitidx := rfl
@[simp] theorem State.diagCount_rxByteidx (s0 s : State) : (State.diagCount s0 s).rxByteidx = s.rxByteidx := rfl
@[simp] theorem State.diagCount_rxLen (s0 s : State) : (State.diagCount s0 s).rxLen = s.rxLen := rfl
@[simp] theorem State.diagCount_rxBuf (s0 s : State) : (State.diagCount s0 s).rxBuf = s.rxBuf := rfl
@[simp] theorem State.diagCount_notify (s0 s : State) : (State.diagCount s0 s).notify = s.notify := rfl
@[simp] theorem State.diagCount_ring (s0 s : State) : (State.diagCount s0 s).ring = s.ring := rfl
@[simp] theorem State.diagCount_inq (s0 s : State) : (State.diagCount s0 s).inq = s.inq := rfl
@[simp] theorem State.diagCount_outq (s0 s : State) : (State.diagCount s0 s).outq = s.outq := rfl
@[simp] theorem State.diagCount_arbState (s0 s : State) : (State.diagCount s0 s).arbState = s.arbState := rfl
@[simp] theorem State.diagCount_arbSub (s0 s : State) : (State.diagCount s0 s).arbSub = s.arbSub := rfl
@[simp] theorem State.diagCount_arbCnt (s0 s : State) : (State.diagCount s0 s).arbCnt = s.arbCnt := rfl
@[simp] theorem State.diagCount_txHeld (s0 s : State) : (State.diagCount s0 s).txHeld = s.txHeld := rfl
@[simp] theorem State.diagCount_txFrame (s0 s : State) : (State.diagCount s0 s).txFrame = s.txFrame := rfl
@[simp] theorem State.diagCount_txLen (s0 s : State) : (State.diagCount s0 s).txLen = s.txLen := rfl
@[simp] theorem State.diagCount_txByteidx (s0 s : State) : (State.diagCount s0 s).txByteidx = s.txByteidx := rfl
@[simp] theorem State.diagCount_txBitidx (s0 s : State) : (State.diagCount s0 s).txBitidx = s.txBitidx := rfl
@[simp] theorem State.diagCount_rdFrame (s0 s : State) : (State.diagCount s0 s).rdFrame = s.rdFrame := rfl
@[simp] theorem State.diagCount_rdLen (s0 s : State) : (State.diagCount s0 s).rdLen = s.rdLen := rfl
@[simp] theorem State.diagCount_statInvariant (s0 s : State) :
    (State.diagCount s0 s).statInvariant = s.statInvariant := rfl
@[simp] theorem State.diagCount_diagMode (s0 s : State) : (State.diagCount s0 s).diagMode = s.diagMode := rfl
@[simp] theorem State.diagCount_dsSync (s0 s : State) : (State.diagCount s0 s).dsSync = s.dsSync := rfl
@[simp] theorem State.diagCount_dsBsh (s0 s : State) : (State.diagCount s0 s).dsBsh = s.dsBsh := rfl
@[simp] theorem State.diagCount_dsBsl (s0 s : State) : (State.diagCount s0 s).dsBsl = s.dsBsl := rfl
@[simp] theorem State.diagCount_dsBit0 (s0 s : State) : (State.diagCount s0 s).dsBit0 = s.dsBit0 := rfl
@[simp] theorem State.diagCount_dsBit1 (s0 s : State) : (State.diagCount s0 s).dsBit1 = s.dsBit1 := rfl
@[simp] theorem State.diagCount_diagGrade (s0 s : State) : (State.diagCount s0 s).diagGrade = s.diagGrade := rfl
@[simp] theorem State.diagCount_diagViol (s0 s : State) : (State.diagCount s0 s).diagViol = s.diagViol := rfl
@[simp] theorem State.diagCount_deFall (s0 s : State) : (State.diagCount s0 s).deFall = s.deFall := rfl
@[simp] theorem State.diagCount_deRise (s0 s : State) : (State.diagCount s0 s).deRise = s.deRise := rfl
@[simp] theorem State.diagCount_dePeriod (s0 s : State) : (State.diagCount s0 s).dePeriod = s.dePeriod := rfl
@[simp] theorem State.diagCount_deStatus (s0 s : State) : (State.diagCount s0 s).deStatus = s.deStatus := rfl
@[simp] theorem State.diagCount_diagYield (s0 s : State) : (State.diagCount s0 s).diagYield = s.diagYield := rfl
@[simp] theorem State.diagCount_diagPhase (s0 s : State) : (State.diagCount s0 s).diagPhase = s.diagPhase := rfl
@[simp] theorem State.diagCount_diagCnt (s0 s : State) : (State.diagCount s0 s).diagCnt = s0.diagCnt + 1 := rfl
@[simp] theorem State.diagCount_diagTmr (s0 s : State) : (State.diagCount s0 s).diagTmr = s0.diagTmr - 1 := rfl
@[simp] theorem State.diagCount_diagBuf (s0 s : State) : (State.diagCount s0 s).diagBuf = s.diagBuf := rfl
@[simp] theorem State.diagCount_diagIdx (s0 s : State) : (State.diagCount s0 s).diagIdx = s.diagIdx := rfl
@[simp] theorem State.diagCount_diagBit (s0 s : State) : (State.diagCount s0 s).diagBit = s.diagBit := rfl
@[simp] theorem State.diagCount_subWait (s0 s : State) : (State.diagCount s0 s).subWait = s.subWait := rfl
@[simp] theorem State.diagCount_retWait (s0 s : State) : (State.diagCount s0 s).retWait = s.retWait := rfl
@[simp] theorem State.diagCount_diagOp (s0 s : State) : (State.diagCount s0 s).diagOp = s.diagOp := rfl
@[simp] theorem State.diagCount_diagShift (s0 s : State) : (State.diagCount s0 s).diagShift = s.diagShift := rfl
@[simp] theorem State.diagCount_diagAcc (s0 s : State) : (State.diagCount s0 s).diagAcc = s.diagAcc := rfl
@[simp] theorem State.diagCount_diagFall (s0 s : State) : (State.diagCount s0 s).diagFall = s.diagFall := rfl
@[simp] theorem State.diagCount_hostLock (s0 s : State) : (State.diagCount s0 s).hostLock = s.hostLock := rfl
@[simp] theorem State.diagCount_params (s0 s : State) : (State.diagCount s0 s).params = s.params := rfl
@[simp] theorem State.diagCount_cycle (s0 s : State) : (State.diagCount s0 s).cycle = s.cycle := rfl
@[simp] theorem State.diagCount_inputs (s0 s : State) : (State.diagCount s0 s).inputs = s.inputs := rfl
@[simp] theorem State.diagCount_calls (s0 s : State) : (State.diagCount s0 s).calls = s.calls := rfl
@[simp] theorem State.diagCount_drvTrace (s0 s : State) : (State.diagCount s0 s).drvTrace = s.drvTrace := rfl
@[simp] theorem State.diagCount_events (s0 s : State) : (State.diagCount s0 s).events = s.events := rfl
@[simp] theorem State.diagCount_replies (s0 s : State) : (State.diagCount s0 s).replies = s.replies := rfl

/-! ### diagStay -/

@[simp] theorem State.diagStay_cfgValid (s0 s : State) : (State.diagStay s0 s).cfgValid = s.cfgValid := rfl
@[simp] theorem State.diagStay_modeAddr (s0 s : State) : (State.diagStay s0 s).modeAddr = s.modeAddr := rfl
@[simp] theorem State.diagStay_modeCtrl (s0 s : State) : (State.diagStay s0 s).modeCtrl = s.modeCtrl := rfl
@[simp] theorem State.diagStay_modeRdpol (s0 s : State) : (State.diagStay s0 s).modeRdpol = s.modeRdpol := rfl
@[simp] theorem State.diagStay_modeGrade (s0 s : State) : (State.diagStay s0 s).modeGrade = s.modeGrade := rfl
@[simp] theorem State.diagStay_tpDelta (s0 s : State) : (State.diagStay s0 s).tpDelta = s.tpDelta := rfl
@[simp] theorem State.diagStay_tpTol (s0 s : State) : (State.diagStay s0 s).tpTol = s.tpTol := rfl
@[simp] theorem State.diagStay_tpWmin (s0 s : State) : (State.diagStay s0 s).tpWmin = s.tpWmin := rfl
@[simp] theorem State.diagStay_tpWmax (s0 s : State) : (State.diagStay s0 s).tpWmax = s.tpWmax := rfl
@[simp] theorem State.diagStay_tpSkew (s0 s : State) : (State.diagStay s0 s).tpSkew = s.tpSkew := rfl
@[simp] theorem State.diagStay_drvLow (s0 s : State) : (State.diagStay s0 s).drvLow = s.drvLow := rfl
@[simp] theorem State.diagStay_linePrev (s0 s : State) : (State.diagStay s0 s).linePrev = s.linePrev := rfl
@[simp] theorem State.diagStay_rxActive (s0 s : State) : (State.diagStay s0 s).rxActive = s.rxActive := rfl
@[simp] theorem State.diagStay_rxPhase (s0 s : State) : (State.diagStay s0 s).rxPhase = s.rxPhase := rfl
@[simp] theorem State.diagStay_rxCnt (s0 s : State) : (State.diagStay s0 s).rxCnt = s.rxCnt := rfl
@[simp] theorem State.diagStay_rxShift (s0 s : State) : (State.diagStay s0 s).rxShift = s.rxShift := rfl
@[simp] theorem State.diagStay_rxBitidx (s0 s : State) : (State.diagStay s0 s).rxBitidx = s.rxBitidx := rfl
@[simp] theorem State.diagStay_rxByteidx (s0 s : State) : (State.diagStay s0 s).rxByteidx = s.rxByteidx := rfl
@[simp] theorem State.diagStay_rxLen (s0 s : State) : (State.diagStay s0 s).rxLen = s.rxLen := rfl
@[simp] theorem State.diagStay_rxBuf (s0 s : State) : (State.diagStay s0 s).rxBuf = s.rxBuf := rfl
@[simp] theorem State.diagStay_notify (s0 s : State) : (State.diagStay s0 s).notify = s.notify := rfl
@[simp] theorem State.diagStay_ring (s0 s : State) : (State.diagStay s0 s).ring = s.ring := rfl
@[simp] theorem State.diagStay_inq (s0 s : State) : (State.diagStay s0 s).inq = s.inq := rfl
@[simp] theorem State.diagStay_outq (s0 s : State) : (State.diagStay s0 s).outq = s.outq := rfl
@[simp] theorem State.diagStay_arbState (s0 s : State) : (State.diagStay s0 s).arbState = s.arbState := rfl
@[simp] theorem State.diagStay_arbSub (s0 s : State) : (State.diagStay s0 s).arbSub = s.arbSub := rfl
@[simp] theorem State.diagStay_arbCnt (s0 s : State) : (State.diagStay s0 s).arbCnt = s.arbCnt := rfl
@[simp] theorem State.diagStay_txHeld (s0 s : State) : (State.diagStay s0 s).txHeld = s.txHeld := rfl
@[simp] theorem State.diagStay_txFrame (s0 s : State) : (State.diagStay s0 s).txFrame = s.txFrame := rfl
@[simp] theorem State.diagStay_txLen (s0 s : State) : (State.diagStay s0 s).txLen = s.txLen := rfl
@[simp] theorem State.diagStay_txByteidx (s0 s : State) : (State.diagStay s0 s).txByteidx = s.txByteidx := rfl
@[simp] theorem State.diagStay_txBitidx (s0 s : State) : (State.diagStay s0 s).txBitidx = s.txBitidx := rfl
@[simp] theorem State.diagStay_rdFrame (s0 s : State) : (State.diagStay s0 s).rdFrame = s.rdFrame := rfl
@[simp] theorem State.diagStay_rdLen (s0 s : State) : (State.diagStay s0 s).rdLen = s.rdLen := rfl
@[simp] theorem State.diagStay_statInvariant (s0 s : State) :
    (State.diagStay s0 s).statInvariant = s.statInvariant := rfl
@[simp] theorem State.diagStay_diagMode (s0 s : State) : (State.diagStay s0 s).diagMode = s.diagMode := rfl
@[simp] theorem State.diagStay_dsSync (s0 s : State) : (State.diagStay s0 s).dsSync = s.dsSync := rfl
@[simp] theorem State.diagStay_dsBsh (s0 s : State) : (State.diagStay s0 s).dsBsh = s.dsBsh := rfl
@[simp] theorem State.diagStay_dsBsl (s0 s : State) : (State.diagStay s0 s).dsBsl = s.dsBsl := rfl
@[simp] theorem State.diagStay_dsBit0 (s0 s : State) : (State.diagStay s0 s).dsBit0 = s.dsBit0 := rfl
@[simp] theorem State.diagStay_dsBit1 (s0 s : State) : (State.diagStay s0 s).dsBit1 = s.dsBit1 := rfl
@[simp] theorem State.diagStay_diagGrade (s0 s : State) : (State.diagStay s0 s).diagGrade = s.diagGrade := rfl
@[simp] theorem State.diagStay_diagViol (s0 s : State) : (State.diagStay s0 s).diagViol = s.diagViol := rfl
@[simp] theorem State.diagStay_deFall (s0 s : State) : (State.diagStay s0 s).deFall = s.deFall := rfl
@[simp] theorem State.diagStay_deRise (s0 s : State) : (State.diagStay s0 s).deRise = s.deRise := rfl
@[simp] theorem State.diagStay_dePeriod (s0 s : State) : (State.diagStay s0 s).dePeriod = s.dePeriod := rfl
@[simp] theorem State.diagStay_deStatus (s0 s : State) : (State.diagStay s0 s).deStatus = s.deStatus := rfl
@[simp] theorem State.diagStay_diagYield (s0 s : State) : (State.diagStay s0 s).diagYield = s.diagYield := rfl
@[simp] theorem State.diagStay_diagPhase (s0 s : State) : (State.diagStay s0 s).diagPhase = s.diagPhase := rfl
@[simp] theorem State.diagStay_diagCnt (s0 s : State) : (State.diagStay s0 s).diagCnt = s.diagCnt := rfl
@[simp] theorem State.diagStay_diagTmr (s0 s : State) : (State.diagStay s0 s).diagTmr = s0.diagTmr - 1 := rfl
@[simp] theorem State.diagStay_diagBuf (s0 s : State) : (State.diagStay s0 s).diagBuf = s.diagBuf := rfl
@[simp] theorem State.diagStay_diagIdx (s0 s : State) : (State.diagStay s0 s).diagIdx = s.diagIdx := rfl
@[simp] theorem State.diagStay_diagBit (s0 s : State) : (State.diagStay s0 s).diagBit = s.diagBit := rfl
@[simp] theorem State.diagStay_subWait (s0 s : State) : (State.diagStay s0 s).subWait = s.subWait := rfl
@[simp] theorem State.diagStay_retWait (s0 s : State) : (State.diagStay s0 s).retWait = s.retWait := rfl
@[simp] theorem State.diagStay_diagOp (s0 s : State) : (State.diagStay s0 s).diagOp = s.diagOp := rfl
@[simp] theorem State.diagStay_diagShift (s0 s : State) : (State.diagStay s0 s).diagShift = s.diagShift := rfl
@[simp] theorem State.diagStay_diagAcc (s0 s : State) : (State.diagStay s0 s).diagAcc = s.diagAcc := rfl
@[simp] theorem State.diagStay_diagFall (s0 s : State) : (State.diagStay s0 s).diagFall = s.diagFall := rfl
@[simp] theorem State.diagStay_hostLock (s0 s : State) : (State.diagStay s0 s).hostLock = s.hostLock := rfl
@[simp] theorem State.diagStay_params (s0 s : State) : (State.diagStay s0 s).params = s.params := rfl
@[simp] theorem State.diagStay_cycle (s0 s : State) : (State.diagStay s0 s).cycle = s.cycle := rfl
@[simp] theorem State.diagStay_inputs (s0 s : State) : (State.diagStay s0 s).inputs = s.inputs := rfl
@[simp] theorem State.diagStay_calls (s0 s : State) : (State.diagStay s0 s).calls = s.calls := rfl
@[simp] theorem State.diagStay_drvTrace (s0 s : State) : (State.diagStay s0 s).drvTrace = s.drvTrace := rfl
@[simp] theorem State.diagStay_events (s0 s : State) : (State.diagStay s0 s).events = s.events := rfl
@[simp] theorem State.diagStay_replies (s0 s : State) : (State.diagStay s0 s).replies = s.replies := rfl

/-! ### endCycle -/

@[simp] theorem State.endCycle_cfgValid (s0 s : State) : (endCycle s0 s).cfgValid = s.cfgValid := rfl
@[simp] theorem State.endCycle_modeAddr (s0 s : State) : (endCycle s0 s).modeAddr = s.modeAddr := rfl
@[simp] theorem State.endCycle_modeCtrl (s0 s : State) : (endCycle s0 s).modeCtrl = s.modeCtrl := rfl
@[simp] theorem State.endCycle_modeRdpol (s0 s : State) : (endCycle s0 s).modeRdpol = s.modeRdpol := rfl
@[simp] theorem State.endCycle_modeGrade (s0 s : State) : (endCycle s0 s).modeGrade = s.modeGrade := rfl
@[simp] theorem State.endCycle_tpDelta (s0 s : State) : (endCycle s0 s).tpDelta = s.tpDelta := rfl
@[simp] theorem State.endCycle_tpTol (s0 s : State) : (endCycle s0 s).tpTol = s.tpTol := rfl
@[simp] theorem State.endCycle_tpWmin (s0 s : State) : (endCycle s0 s).tpWmin = s.tpWmin := rfl
@[simp] theorem State.endCycle_tpWmax (s0 s : State) : (endCycle s0 s).tpWmax = s.tpWmax := rfl
@[simp] theorem State.endCycle_tpSkew (s0 s : State) : (endCycle s0 s).tpSkew = s.tpSkew := rfl
@[simp] theorem State.endCycle_drvLow (s0 s : State) : (endCycle s0 s).drvLow = s.drvLow := rfl
@[simp] theorem State.endCycle_linePrev (s0 s : State) : (endCycle s0 s).linePrev = s0.line := rfl
@[simp] theorem State.endCycle_rxActive (s0 s : State) : (endCycle s0 s).rxActive = s.rxActive := rfl
@[simp] theorem State.endCycle_rxPhase (s0 s : State) : (endCycle s0 s).rxPhase = s.rxPhase := rfl
@[simp] theorem State.endCycle_rxCnt (s0 s : State) : (endCycle s0 s).rxCnt = s.rxCnt := rfl
@[simp] theorem State.endCycle_rxShift (s0 s : State) : (endCycle s0 s).rxShift = s.rxShift := rfl
@[simp] theorem State.endCycle_rxBitidx (s0 s : State) : (endCycle s0 s).rxBitidx = s.rxBitidx := rfl
@[simp] theorem State.endCycle_rxByteidx (s0 s : State) : (endCycle s0 s).rxByteidx = s.rxByteidx := rfl
@[simp] theorem State.endCycle_rxLen (s0 s : State) : (endCycle s0 s).rxLen = s.rxLen := rfl
@[simp] theorem State.endCycle_rxBuf (s0 s : State) : (endCycle s0 s).rxBuf = s.rxBuf := rfl
@[simp] theorem State.endCycle_notify (s0 s : State) : (endCycle s0 s).notify = s.notify := rfl
@[simp] theorem State.endCycle_ring (s0 s : State) : (endCycle s0 s).ring = s.ring := rfl
@[simp] theorem State.endCycle_inq (s0 s : State) : (endCycle s0 s).inq = s.inq := rfl
@[simp] theorem State.endCycle_outq (s0 s : State) : (endCycle s0 s).outq = s.outq := rfl
@[simp] theorem State.endCycle_arbState (s0 s : State) : (endCycle s0 s).arbState = s.arbState := rfl
@[simp] theorem State.endCycle_arbSub (s0 s : State) : (endCycle s0 s).arbSub = s.arbSub := rfl
@[simp] theorem State.endCycle_arbCnt (s0 s : State) : (endCycle s0 s).arbCnt = s.arbCnt := rfl
@[simp] theorem State.endCycle_txHeld (s0 s : State) : (endCycle s0 s).txHeld = s.txHeld := rfl
@[simp] theorem State.endCycle_txFrame (s0 s : State) : (endCycle s0 s).txFrame = s.txFrame := rfl
@[simp] theorem State.endCycle_txLen (s0 s : State) : (endCycle s0 s).txLen = s.txLen := rfl
@[simp] theorem State.endCycle_txByteidx (s0 s : State) : (endCycle s0 s).txByteidx = s.txByteidx := rfl
@[simp] theorem State.endCycle_txBitidx (s0 s : State) : (endCycle s0 s).txBitidx = s.txBitidx := rfl
@[simp] theorem State.endCycle_rdFrame (s0 s : State) : (endCycle s0 s).rdFrame = s.rdFrame := rfl
@[simp] theorem State.endCycle_rdLen (s0 s : State) : (endCycle s0 s).rdLen = s.rdLen := rfl
@[simp] theorem State.endCycle_statInvariant (s0 s : State) : (endCycle s0 s).statInvariant = s.statInvariant := rfl
@[simp] theorem State.endCycle_diagMode (s0 s : State) : (endCycle s0 s).diagMode = s.diagMode := rfl
@[simp] theorem State.endCycle_dsSync (s0 s : State) : (endCycle s0 s).dsSync = s.dsSync := rfl
@[simp] theorem State.endCycle_dsBsh (s0 s : State) : (endCycle s0 s).dsBsh = s.dsBsh := rfl
@[simp] theorem State.endCycle_dsBsl (s0 s : State) : (endCycle s0 s).dsBsl = s.dsBsl := rfl
@[simp] theorem State.endCycle_dsBit0 (s0 s : State) : (endCycle s0 s).dsBit0 = s.dsBit0 := rfl
@[simp] theorem State.endCycle_dsBit1 (s0 s : State) : (endCycle s0 s).dsBit1 = s.dsBit1 := rfl
@[simp] theorem State.endCycle_diagGrade (s0 s : State) : (endCycle s0 s).diagGrade = s.diagGrade := rfl
@[simp] theorem State.endCycle_diagViol (s0 s : State) : (endCycle s0 s).diagViol = s.diagViol := rfl
@[simp] theorem State.endCycle_deFall (s0 s : State) : (endCycle s0 s).deFall = s.deFall := rfl
@[simp] theorem State.endCycle_deRise (s0 s : State) : (endCycle s0 s).deRise = s.deRise := rfl
@[simp] theorem State.endCycle_dePeriod (s0 s : State) : (endCycle s0 s).dePeriod = s.dePeriod := rfl
@[simp] theorem State.endCycle_deStatus (s0 s : State) : (endCycle s0 s).deStatus = s.deStatus := rfl
@[simp] theorem State.endCycle_diagYield (s0 s : State) : (endCycle s0 s).diagYield = s.diagYield := rfl
@[simp] theorem State.endCycle_diagPhase (s0 s : State) : (endCycle s0 s).diagPhase = s.diagPhase := rfl
@[simp] theorem State.endCycle_diagCnt (s0 s : State) : (endCycle s0 s).diagCnt = s.diagCnt := rfl
@[simp] theorem State.endCycle_diagTmr (s0 s : State) : (endCycle s0 s).diagTmr = s.diagTmr := rfl
@[simp] theorem State.endCycle_diagBuf (s0 s : State) : (endCycle s0 s).diagBuf = s.diagBuf := rfl
@[simp] theorem State.endCycle_diagIdx (s0 s : State) : (endCycle s0 s).diagIdx = s.diagIdx := rfl
@[simp] theorem State.endCycle_diagBit (s0 s : State) : (endCycle s0 s).diagBit = s.diagBit := rfl
@[simp] theorem State.endCycle_subWait (s0 s : State) : (endCycle s0 s).subWait = s.subWait := rfl
@[simp] theorem State.endCycle_retWait (s0 s : State) : (endCycle s0 s).retWait = s.retWait := rfl
@[simp] theorem State.endCycle_diagOp (s0 s : State) : (endCycle s0 s).diagOp = s.diagOp := rfl
@[simp] theorem State.endCycle_diagShift (s0 s : State) : (endCycle s0 s).diagShift = s.diagShift := rfl
@[simp] theorem State.endCycle_diagAcc (s0 s : State) : (endCycle s0 s).diagAcc = s.diagAcc := rfl
@[simp] theorem State.endCycle_diagFall (s0 s : State) : (endCycle s0 s).diagFall = s.diagFall := rfl
@[simp] theorem State.endCycle_hostLock (s0 s : State) : (endCycle s0 s).hostLock = false := rfl
@[simp] theorem State.endCycle_params (s0 s : State) : (endCycle s0 s).params = s.params := rfl
@[simp] theorem State.endCycle_cycle (s0 s : State) : (endCycle s0 s).cycle = s0.cycle + 1 := rfl
@[simp] theorem State.endCycle_inputs (s0 s : State) : (endCycle s0 s).inputs = s0.inputs.tail := rfl
@[simp] theorem State.endCycle_calls (s0 s : State) : (endCycle s0 s).calls = s.calls := rfl
@[simp] theorem State.endCycle_drvTrace (s0 s : State) : (endCycle s0 s).drvTrace = s0.drvLow :: s0.drvTrace := rfl
@[simp] theorem State.endCycle_events (s0 s : State) : (endCycle s0 s).events = s.events := rfl
@[simp] theorem State.endCycle_replies (s0 s : State) : (endCycle s0 s).replies = s.replies := rfl

/-! ### passWave, passIdle and driveWave -/

@[simp] theorem State.passWave_nil (s : State) : s.passWave [] = s := rfl
@[simp] theorem State.passWave_cons (s : State) (d : Bool) (w : List Bool) :
    s.passWave (d :: w) = (s.passCycle d).passWave w := rfl

theorem State.passWave_append (s : State) (v w : List Bool) : s.passWave (v ++ w) = (s.passWave v).passWave w := by
  induction v generalizing s with
  | nil => rfl
  | cons d v ih => exact ih _

@[simp] theorem State.passWave_cfgValid (s : State) (w : List Bool) : (s.passWave w).cfgValid = s.cfgValid := by
  induction w generalizing s with
  | nil => rfl
  | cons d w ih => exact ih _
@[simp] theorem State.passWave_modeAddr (s : State) (w : List Bool) : (s.passWave w).modeAddr = s.modeAddr := by
  induction w generalizing s with
  | nil => rfl
  | cons d w ih => exact ih _
@[simp] theorem State.passWave_modeCtrl (s : State) (w : List Bool) : (s.passWave w).modeCtrl = s.modeCtrl := by
  induction w generalizing s with
  | nil => rfl
  | cons d w ih => exact ih _
@[simp] theorem State.passWave_modeRdpol (s : State) (w : List Bool) : (s.passWave w).modeRdpol = s.modeRdpol := by
  induction w generalizing s with
  | nil => rfl
  | cons d w ih => exact ih _
@[simp] theorem State.passWave_modeGrade (s : State) (w : List Bool) : (s.passWave w).modeGrade = s.modeGrade := by
  induction w generalizing s with
  | nil => rfl
  | cons d w ih => exact ih _
@[simp] theorem State.passWave_tpDelta (s : State) (w : List Bool) : (s.passWave w).tpDelta = s.tpDelta := by
  induction w generalizing s with
  | nil => rfl
  | cons d w ih => exact ih _
@[simp] theorem State.passWave_tpTol (s : State) (w : List Bool) : (s.passWave w).tpTol = s.tpTol := by
  induction w generalizing s with
  | nil => rfl
  | cons d w ih => exact ih _
@[simp] theorem State.passWave_tpWmin (s : State) (w : List Bool) : (s.passWave w).tpWmin = s.tpWmin := by
  induction w generalizing s with
  | nil => rfl
  | cons d w ih => exact ih _
@[simp] theorem State.passWave_tpWmax (s : State) (w : List Bool) : (s.passWave w).tpWmax = s.tpWmax := by
  induction w generalizing s with
  | nil => rfl
  | cons d w ih => exact ih _
@[simp] theorem State.passWave_tpSkew (s : State) (w : List Bool) : (s.passWave w).tpSkew = s.tpSkew := by
  induction w generalizing s with
  | nil => rfl
  | cons d w ih => exact ih _
@[simp] theorem State.passWave_drvLow (s : State) (w : List Bool) : (s.passWave w).drvLow = s.drvLow := by
  induction w generalizing s with
  | nil => rfl
  | cons d w ih => exact ih _
@[simp] theorem State.passWave_rxActive (s : State) (w : List Bool) : (s.passWave w).rxActive = s.rxActive := by
  induction w generalizing s with
  | nil => rfl
  | cons d w ih => exact ih _
@[simp] theorem State.passWave_rxPhase (s : State) (w : List Bool) : (s.passWave w).rxPhase = s.rxPhase := by
  induction w generalizing s with
  | nil => rfl
  | cons d w ih => exact ih _
@[simp] theorem State.passWave_rxCnt (s : State) (w : List Bool) : (s.passWave w).rxCnt = s.rxCnt := by
  induction w generalizing s with
  | nil => rfl
  | cons d w ih => exact ih _
@[simp] theorem State.passWave_rxShift (s : State) (w : List Bool) : (s.passWave w).rxShift = s.rxShift := by
  induction w generalizing s with
  | nil => rfl
  | cons d w ih => exact ih _
@[simp] theorem State.passWave_rxBitidx (s : State) (w : List Bool) : (s.passWave w).rxBitidx = s.rxBitidx := by
  induction w generalizing s with
  | nil => rfl
  | cons d w ih => exact ih _
@[simp] theorem State.passWave_rxByteidx (s : State) (w : List Bool) : (s.passWave w).rxByteidx = s.rxByteidx := by
  induction w generalizing s with
  | nil => rfl
  | cons d w ih => exact ih _
@[simp] theorem State.passWave_rxLen (s : State) (w : List Bool) : (s.passWave w).rxLen = s.rxLen := by
  induction w generalizing s with
  | nil => rfl
  | cons d w ih => exact ih _
@[simp] theorem State.passWave_rxBuf (s : State) (w : List Bool) : (s.passWave w).rxBuf = s.rxBuf := by
  induction w generalizing s with
  | nil => rfl
  | cons d w ih => exact ih _
@[simp] theorem State.passWave_notify (s : State) (w : List Bool) : (s.passWave w).notify = s.notify := by
  induction w generalizing s with
  | nil => rfl
  | cons d w ih => exact ih _
@[simp] theorem State.passWave_ring (s : State) (w : List Bool) : (s.passWave w).ring = s.ring := by
  induction w generalizing s with
  | nil => rfl
  | cons d w ih => exact ih _
@[simp] theorem State.passWave_inq (s : State) (w : List Bool) : (s.passWave w).inq = s.inq := by
  induction w generalizing s with
  | nil => rfl
  | cons d w ih => exact ih _
@[simp] theorem State.passWave_outq (s : State) (w : List Bool) : (s.passWave w).outq = s.outq := by
  induction w generalizing s with
  | nil => rfl
  | cons d w ih => exact ih _
@[simp] theorem State.passWave_arbState (s : State) (w : List Bool) : (s.passWave w).arbState = s.arbState := by
  induction w generalizing s with
  | nil => rfl
  | cons d w ih => exact ih _
@[simp] theorem State.passWave_arbSub (s : State) (w : List Bool) : (s.passWave w).arbSub = s.arbSub := by
  induction w generalizing s with
  | nil => rfl
  | cons d w ih => exact ih _
@[simp] theorem State.passWave_arbCnt (s : State) (w : List Bool) : (s.passWave w).arbCnt = s.arbCnt := by
  induction w generalizing s with
  | nil => rfl
  | cons d w ih => exact ih _
@[simp] theorem State.passWave_txHeld (s : State) (w : List Bool) : (s.passWave w).txHeld = s.txHeld := by
  induction w generalizing s with
  | nil => rfl
  | cons d w ih => exact ih _
@[simp] theorem State.passWave_txFrame (s : State) (w : List Bool) : (s.passWave w).txFrame = s.txFrame := by
  induction w generalizing s with
  | nil => rfl
  | cons d w ih => exact ih _
@[simp] theorem State.passWave_txLen (s : State) (w : List Bool) : (s.passWave w).txLen = s.txLen := by
  induction w generalizing s with
  | nil => rfl
  | cons d w ih => exact ih _
@[simp] theorem State.passWave_txByteidx (s : State) (w : List Bool) : (s.passWave w).txByteidx = s.txByteidx := by
  induction w generalizing s with
  | nil => rfl
  | cons d w ih => exact ih _
@[simp] theorem State.passWave_txBitidx (s : State) (w : List Bool) : (s.passWave w).txBitidx = s.txBitidx := by
  induction w generalizing s with
  | nil => rfl
  | cons d w ih => exact ih _
@[simp] theorem State.passWave_rdFrame (s : State) (w : List Bool) : (s.passWave w).rdFrame = s.rdFrame := by
  induction w generalizing s with
  | nil => rfl
  | cons d w ih => exact ih _
@[simp] theorem State.passWave_rdLen (s : State) (w : List Bool) : (s.passWave w).rdLen = s.rdLen := by
  induction w generalizing s with
  | nil => rfl
  | cons d w ih => exact ih _
@[simp] theorem State.passWave_statInvariant (s : State) (w : List Bool) : (s.passWave w).statInvariant = s.statInvariant := by
  induction w generalizing s with
  | nil => rfl
  | cons d w ih => exact ih _
@[simp] theorem State.passWave_diagMode (s : State) (w : List Bool) : (s.passWave w).diagMode = s.diagMode := by
  induction w generalizing s with
  | nil => rfl
  | cons d w ih => exact ih _
@[simp] theorem State.passWave_dsSync (s : State) (w : List Bool) : (s.passWave w).dsSync = s.dsSync := by
  induction w generalizing s with
  | nil => rfl
  | cons d w ih => exact ih _
@[simp] theorem State.passWave_dsBsh (s : State) (w : List Bool) : (s.passWave w).dsBsh = s.dsBsh := by
  induction w generalizing s with
  | nil => rfl
  | cons d w ih => exact ih _
@[simp] theorem State.passWave_dsBsl (s : State) (w : List Bool) : (s.passWave w).dsBsl = s.dsBsl := by
  induction w generalizing s with
  | nil => rfl
  | cons d w ih => exact ih _
@[simp] theorem State.passWave_dsBit0 (s : State) (w : List Bool) : (s.passWave w).dsBit0 = s.dsBit0 := by
  induction w generalizing s with
  | nil => rfl
  | cons d w ih => exact ih _
@[simp] theorem State.passWave_dsBit1 (s : State) (w : List Bool) : (s.passWave w).dsBit1 = s.dsBit1 := by
  induction w generalizing s with
  | nil => rfl
  | cons d w ih => exact ih _
@[simp] theorem State.passWave_diagGrade (s : State) (w : List Bool) : (s.passWave w).diagGrade = s.diagGrade := by
  induction w generalizing s with
  | nil => rfl
  | cons d w ih => exact ih _
@[simp] theorem State.passWave_diagViol (s : State) (w : List Bool) : (s.passWave w).diagViol = s.diagViol := by
  induction w generalizing s with
  | nil => rfl
  | cons d w ih => exact ih _
@[simp] theorem State.passWave_deFall (s : State) (w : List Bool) : (s.passWave w).deFall = s.deFall := by
  induction w generalizing s with
  | nil => rfl
  | cons d w ih => exact ih _
@[simp] theorem State.passWave_deRise (s : State) (w : List Bool) : (s.passWave w).deRise = s.deRise := by
  induction w generalizing s with
  | nil => rfl
  | cons d w ih => exact ih _
@[simp] theorem State.passWave_dePeriod (s : State) (w : List Bool) : (s.passWave w).dePeriod = s.dePeriod := by
  induction w generalizing s with
  | nil => rfl
  | cons d w ih => exact ih _
@[simp] theorem State.passWave_deStatus (s : State) (w : List Bool) : (s.passWave w).deStatus = s.deStatus := by
  induction w generalizing s with
  | nil => rfl
  | cons d w ih => exact ih _
@[simp] theorem State.passWave_diagYield (s : State) (w : List Bool) : (s.passWave w).diagYield = s.diagYield := by
  induction w generalizing s with
  | nil => rfl
  | cons d w ih => exact ih _
@[simp] theorem State.passWave_diagPhase (s : State) (w : List Bool) : (s.passWave w).diagPhase = s.diagPhase := by
  induction w generalizing s with
  | nil => rfl
  | cons d w ih => exact ih _
@[simp] theorem State.passWave_diagCnt (s : State) (w : List Bool) : (s.passWave w).diagCnt = s.diagCnt := by
  induction w generalizing s with
  | nil => rfl
  | cons d w ih => exact ih _
@[simp] theorem State.passWave_diagTmr (s : State) (w : List Bool) : (s.passWave w).diagTmr = s.diagTmr := by
  induction w generalizing s with
  | nil => rfl
  | cons d w ih => exact ih _
@[simp] theorem State.passWave_diagBuf (s : State) (w : List Bool) : (s.passWave w).diagBuf = s.diagBuf := by
  induction w generalizing s with
  | nil => rfl
  | cons d w ih => exact ih _
@[simp] theorem State.passWave_diagIdx (s : State) (w : List Bool) : (s.passWave w).diagIdx = s.diagIdx := by
  induction w generalizing s with
  | nil => rfl
  | cons d w ih => exact ih _
@[simp] theorem State.passWave_diagBit (s : State) (w : List Bool) : (s.passWave w).diagBit = s.diagBit := by
  induction w generalizing s with
  | nil => rfl
  | cons d w ih => exact ih _
@[simp] theorem State.passWave_subWait (s : State) (w : List Bool) : (s.passWave w).subWait = s.subWait := by
  induction w generalizing s with
  | nil => rfl
  | cons d w ih => exact ih _
@[simp] theorem State.passWave_retWait (s : State) (w : List Bool) : (s.passWave w).retWait = s.retWait := by
  induction w generalizing s with
  | nil => rfl
  | cons d w ih => exact ih _
@[simp] theorem State.passWave_diagOp (s : State) (w : List Bool) : (s.passWave w).diagOp = s.diagOp := by
  induction w generalizing s with
  | nil => rfl
  | cons d w ih => exact ih _
@[simp] theorem State.passWave_diagShift (s : State) (w : List Bool) : (s.passWave w).diagShift = s.diagShift := by
  induction w generalizing s with
  | nil => rfl
  | cons d w ih => exact ih _
@[simp] theorem State.passWave_diagAcc (s : State) (w : List Bool) : (s.passWave w).diagAcc = s.diagAcc := by
  induction w generalizing s with
  | nil => rfl
  | cons d w ih => exact ih _
@[simp] theorem State.passWave_diagFall (s : State) (w : List Bool) : (s.passWave w).diagFall = s.diagFall := by
  induction w generalizing s with
  | nil => rfl
  | cons d w ih => exact ih _
@[simp] theorem State.passWave_hostLock (s : State) (w : List Bool) : (s.passWave w).hostLock = s.hostLock := by
  induction w generalizing s with
  | nil => rfl
  | cons d w ih => exact ih _
@[simp] theorem State.passWave_params (s : State) (w : List Bool) : (s.passWave w).params = s.params := by
  induction w generalizing s with
  | nil => rfl
  | cons d w ih => exact ih _
@[simp] theorem State.passWave_calls (s : State) (w : List Bool) : (s.passWave w).calls = s.calls := by
  induction w generalizing s with
  | nil => rfl
  | cons d w ih => exact ih _
@[simp] theorem State.passWave_events (s : State) (w : List Bool) : (s.passWave w).events = s.events := by
  induction w generalizing s with
  | nil => rfl
  | cons d w ih => exact ih _
@[simp] theorem State.passWave_replies (s : State) (w : List Bool) : (s.passWave w).replies = s.replies := by
  induction w generalizing s with
  | nil => rfl
  | cons d w ih => exact ih _
@[simp] theorem State.passWave_cycle (s : State) (w : List Bool) : (s.passWave w).cycle = s.cycle + w.length := by
  induction w generalizing s with
  | nil => rfl
  | cons d w ih => simp [ih]; omega
@[simp] theorem State.passWave_inputs (s : State) (w : List Bool) : (s.passWave w).inputs = s.inputs.drop w.length := by
  induction w generalizing s with
  | nil => rfl
  | cons d w ih => simp [ih]
@[simp] theorem State.passWave_drvTrace (s : State) (w : List Bool) :
    (s.passWave w).drvTrace = w.reverse ++ s.drvTrace := by
  induction w generalizing s with
  | nil => rfl
  | cons d w ih => simp [ih]

@[simp] theorem State.passIdle_cfgValid (s : State) (n : Nat) :
    (s.passIdle n).cfgValid = s.cfgValid := by simp [State.passIdle]
@[simp] theorem State.passIdle_modeAddr (s : State) (n : Nat) :
    (s.passIdle n).modeAddr = s.modeAddr := by simp [State.passIdle]
@[simp] theorem State.passIdle_modeCtrl (s : State) (n : Nat) :
    (s.passIdle n).modeCtrl = s.modeCtrl := by simp [State.passIdle]
@[simp] theorem State.passIdle_modeRdpol (s : State) (n : Nat) :
    (s.passIdle n).modeRdpol = s.modeRdpol := by simp [State.passIdle]
@[simp] theorem State.passIdle_modeGrade (s : State) (n : Nat) :
    (s.passIdle n).modeGrade = s.modeGrade := by simp [State.passIdle]
@[simp] theorem State.passIdle_tpDelta (s : State) (n : Nat) :
    (s.passIdle n).tpDelta = s.tpDelta := by simp [State.passIdle]
@[simp] theorem State.passIdle_tpTol (s : State) (n : Nat) :
    (s.passIdle n).tpTol = s.tpTol := by simp [State.passIdle]
@[simp] theorem State.passIdle_tpWmin (s : State) (n : Nat) :
    (s.passIdle n).tpWmin = s.tpWmin := by simp [State.passIdle]
@[simp] theorem State.passIdle_tpWmax (s : State) (n : Nat) :
    (s.passIdle n).tpWmax = s.tpWmax := by simp [State.passIdle]
@[simp] theorem State.passIdle_tpSkew (s : State) (n : Nat) :
    (s.passIdle n).tpSkew = s.tpSkew := by simp [State.passIdle]
@[simp] theorem State.passIdle_drvLow (s : State) (n : Nat) :
    (s.passIdle n).drvLow = s.drvLow := by simp [State.passIdle]
@[simp] theorem State.passIdle_rxActive (s : State) (n : Nat) :
    (s.passIdle n).rxActive = s.rxActive := by simp [State.passIdle]
@[simp] theorem State.passIdle_rxPhase (s : State) (n : Nat) :
    (s.passIdle n).rxPhase = s.rxPhase := by simp [State.passIdle]
@[simp] theorem State.passIdle_rxCnt (s : State) (n : Nat) :
    (s.passIdle n).rxCnt = s.rxCnt := by simp [State.passIdle]
@[simp] theorem State.passIdle_rxShift (s : State) (n : Nat) :
    (s.passIdle n).rxShift = s.rxShift := by simp [State.passIdle]
@[simp] theorem State.passIdle_rxBitidx (s : State) (n : Nat) :
    (s.passIdle n).rxBitidx = s.rxBitidx := by simp [State.passIdle]
@[simp] theorem State.passIdle_rxByteidx (s : State) (n : Nat) :
    (s.passIdle n).rxByteidx = s.rxByteidx := by simp [State.passIdle]
@[simp] theorem State.passIdle_rxLen (s : State) (n : Nat) :
    (s.passIdle n).rxLen = s.rxLen := by simp [State.passIdle]
@[simp] theorem State.passIdle_rxBuf (s : State) (n : Nat) :
    (s.passIdle n).rxBuf = s.rxBuf := by simp [State.passIdle]
@[simp] theorem State.passIdle_notify (s : State) (n : Nat) :
    (s.passIdle n).notify = s.notify := by simp [State.passIdle]
@[simp] theorem State.passIdle_ring (s : State) (n : Nat) : (s.passIdle n).ring = s.ring := by simp [State.passIdle]
@[simp] theorem State.passIdle_inq (s : State) (n : Nat) : (s.passIdle n).inq = s.inq := by simp [State.passIdle]
@[simp] theorem State.passIdle_outq (s : State) (n : Nat) : (s.passIdle n).outq = s.outq := by simp [State.passIdle]
@[simp] theorem State.passIdle_arbState (s : State) (n : Nat) :
    (s.passIdle n).arbState = s.arbState := by simp [State.passIdle]
@[simp] theorem State.passIdle_arbSub (s : State) (n : Nat) :
    (s.passIdle n).arbSub = s.arbSub := by simp [State.passIdle]
@[simp] theorem State.passIdle_arbCnt (s : State) (n : Nat) :
    (s.passIdle n).arbCnt = s.arbCnt := by simp [State.passIdle]
@[simp] theorem State.passIdle_txHeld (s : State) (n : Nat) :
    (s.passIdle n).txHeld = s.txHeld := by simp [State.passIdle]
@[simp] theorem State.passIdle_txFrame (s : State) (n : Nat) :
    (s.passIdle n).txFrame = s.txFrame := by simp [State.passIdle]
@[simp] theorem State.passIdle_txLen (s : State) (n : Nat) :
    (s.passIdle n).txLen = s.txLen := by simp [State.passIdle]
@[simp] theorem State.passIdle_txByteidx (s : State) (n : Nat) :
    (s.passIdle n).txByteidx = s.txByteidx := by simp [State.passIdle]
@[simp] theorem State.passIdle_txBitidx (s : State) (n : Nat) :
    (s.passIdle n).txBitidx = s.txBitidx := by simp [State.passIdle]
@[simp] theorem State.passIdle_rdFrame (s : State) (n : Nat) :
    (s.passIdle n).rdFrame = s.rdFrame := by simp [State.passIdle]
@[simp] theorem State.passIdle_rdLen (s : State) (n : Nat) :
    (s.passIdle n).rdLen = s.rdLen := by simp [State.passIdle]
@[simp] theorem State.passIdle_statInvariant (s : State) (n : Nat) :
    (s.passIdle n).statInvariant = s.statInvariant := by simp [State.passIdle]
@[simp] theorem State.passIdle_diagMode (s : State) (n : Nat) :
    (s.passIdle n).diagMode = s.diagMode := by simp [State.passIdle]
@[simp] theorem State.passIdle_dsSync (s : State) (n : Nat) :
    (s.passIdle n).dsSync = s.dsSync := by simp [State.passIdle]
@[simp] theorem State.passIdle_dsBsh (s : State) (n : Nat) :
    (s.passIdle n).dsBsh = s.dsBsh := by simp [State.passIdle]
@[simp] theorem State.passIdle_dsBsl (s : State) (n : Nat) :
    (s.passIdle n).dsBsl = s.dsBsl := by simp [State.passIdle]
@[simp] theorem State.passIdle_dsBit0 (s : State) (n : Nat) :
    (s.passIdle n).dsBit0 = s.dsBit0 := by simp [State.passIdle]
@[simp] theorem State.passIdle_dsBit1 (s : State) (n : Nat) :
    (s.passIdle n).dsBit1 = s.dsBit1 := by simp [State.passIdle]
@[simp] theorem State.passIdle_diagGrade (s : State) (n : Nat) :
    (s.passIdle n).diagGrade = s.diagGrade := by simp [State.passIdle]
@[simp] theorem State.passIdle_diagViol (s : State) (n : Nat) :
    (s.passIdle n).diagViol = s.diagViol := by simp [State.passIdle]
@[simp] theorem State.passIdle_deFall (s : State) (n : Nat) :
    (s.passIdle n).deFall = s.deFall := by simp [State.passIdle]
@[simp] theorem State.passIdle_deRise (s : State) (n : Nat) :
    (s.passIdle n).deRise = s.deRise := by simp [State.passIdle]
@[simp] theorem State.passIdle_dePeriod (s : State) (n : Nat) :
    (s.passIdle n).dePeriod = s.dePeriod := by simp [State.passIdle]
@[simp] theorem State.passIdle_deStatus (s : State) (n : Nat) :
    (s.passIdle n).deStatus = s.deStatus := by simp [State.passIdle]
@[simp] theorem State.passIdle_diagYield (s : State) (n : Nat) :
    (s.passIdle n).diagYield = s.diagYield := by simp [State.passIdle]
@[simp] theorem State.passIdle_diagPhase (s : State) (n : Nat) :
    (s.passIdle n).diagPhase = s.diagPhase := by simp [State.passIdle]
@[simp] theorem State.passIdle_diagCnt (s : State) (n : Nat) :
    (s.passIdle n).diagCnt = s.diagCnt := by simp [State.passIdle]
@[simp] theorem State.passIdle_diagTmr (s : State) (n : Nat) :
    (s.passIdle n).diagTmr = s.diagTmr := by simp [State.passIdle]
@[simp] theorem State.passIdle_diagBuf (s : State) (n : Nat) :
    (s.passIdle n).diagBuf = s.diagBuf := by simp [State.passIdle]
@[simp] theorem State.passIdle_diagIdx (s : State) (n : Nat) :
    (s.passIdle n).diagIdx = s.diagIdx := by simp [State.passIdle]
@[simp] theorem State.passIdle_diagBit (s : State) (n : Nat) :
    (s.passIdle n).diagBit = s.diagBit := by simp [State.passIdle]
@[simp] theorem State.passIdle_subWait (s : State) (n : Nat) :
    (s.passIdle n).subWait = s.subWait := by simp [State.passIdle]
@[simp] theorem State.passIdle_retWait (s : State) (n : Nat) :
    (s.passIdle n).retWait = s.retWait := by simp [State.passIdle]
@[simp] theorem State.passIdle_diagOp (s : State) (n : Nat) :
    (s.passIdle n).diagOp = s.diagOp := by simp [State.passIdle]
@[simp] theorem State.passIdle_diagShift (s : State) (n : Nat) :
    (s.passIdle n).diagShift = s.diagShift := by simp [State.passIdle]
@[simp] theorem State.passIdle_diagAcc (s : State) (n : Nat) :
    (s.passIdle n).diagAcc = s.diagAcc := by simp [State.passIdle]
@[simp] theorem State.passIdle_diagFall (s : State) (n : Nat) :
    (s.passIdle n).diagFall = s.diagFall := by simp [State.passIdle]
@[simp] theorem State.passIdle_hostLock (s : State) (n : Nat) :
    (s.passIdle n).hostLock = s.hostLock := by simp [State.passIdle]
@[simp] theorem State.passIdle_params (s : State) (n : Nat) :
    (s.passIdle n).params = s.params := by simp [State.passIdle]
@[simp] theorem State.passIdle_cycle (s : State) (n : Nat) :
    (s.passIdle n).cycle = s.cycle + n := by simp [State.passIdle]
@[simp] theorem State.passIdle_inputs (s : State) (n : Nat) :
    (s.passIdle n).inputs = s.inputs.drop n := by simp [State.passIdle]
@[simp] theorem State.passIdle_calls (s : State) (n : Nat) :
    (s.passIdle n).calls = s.calls := by simp [State.passIdle]
@[simp] theorem State.passIdle_drvTrace (s : State) (n : Nat) :
    (s.passIdle n).drvTrace = List.replicate n s.drvLow ++ s.drvTrace := by simp [State.passIdle]
@[simp] theorem State.passIdle_events (s : State) (n : Nat) :
    (s.passIdle n).events = s.events := by simp [State.passIdle]
@[simp] theorem State.passIdle_replies (s : State) (n : Nat) :
    (s.passIdle n).replies = s.replies := by simp [State.passIdle]

@[simp] theorem State.driveWave_cfgValid (s : State) (w : List Bool) :
    (s.driveWave w).cfgValid = s.cfgValid := by simp [State.driveWave]
@[simp] theorem State.driveWave_modeAddr (s : State) (w : List Bool) :
    (s.driveWave w).modeAddr = s.modeAddr := by simp [State.driveWave]
@[simp] theorem State.driveWave_modeCtrl (s : State) (w : List Bool) :
    (s.driveWave w).modeCtrl = s.modeCtrl := by simp [State.driveWave]
@[simp] theorem State.driveWave_modeRdpol (s : State) (w : List Bool) :
    (s.driveWave w).modeRdpol = s.modeRdpol := by simp [State.driveWave]
@[simp] theorem State.driveWave_modeGrade (s : State) (w : List Bool) :
    (s.driveWave w).modeGrade = s.modeGrade := by simp [State.driveWave]
@[simp] theorem State.driveWave_tpDelta (s : State) (w : List Bool) :
    (s.driveWave w).tpDelta = s.tpDelta := by simp [State.driveWave]
@[simp] theorem State.driveWave_tpTol (s : State) (w : List Bool) :
    (s.driveWave w).tpTol = s.tpTol := by simp [State.driveWave]
@[simp] theorem State.driveWave_tpWmin (s : State) (w : List Bool) :
    (s.driveWave w).tpWmin = s.tpWmin := by simp [State.driveWave]
@[simp] theorem State.driveWave_tpWmax (s : State) (w : List Bool) :
    (s.driveWave w).tpWmax = s.tpWmax := by simp [State.driveWave]
@[simp] theorem State.driveWave_tpSkew (s : State) (w : List Bool) :
    (s.driveWave w).tpSkew = s.tpSkew := by simp [State.driveWave]
@[simp] theorem State.driveWave_drvLow (s : State) (w : List Bool) : (s.driveWave w).drvLow = false := rfl
@[simp] theorem State.driveWave_rxActive (s : State) (w : List Bool) :
    (s.driveWave w).rxActive = s.rxActive := by simp [State.driveWave]
@[simp] theorem State.driveWave_rxPhase (s : State) (w : List Bool) :
    (s.driveWave w).rxPhase = s.rxPhase := by simp [State.driveWave]
@[simp] theorem State.driveWave_rxCnt (s : State) (w : List Bool) :
    (s.driveWave w).rxCnt = s.rxCnt := by simp [State.driveWave]
@[simp] theorem State.driveWave_rxShift (s : State) (w : List Bool) :
    (s.driveWave w).rxShift = s.rxShift := by simp [State.driveWave]
@[simp] theorem State.driveWave_rxBitidx (s : State) (w : List Bool) :
    (s.driveWave w).rxBitidx = s.rxBitidx := by simp [State.driveWave]
@[simp] theorem State.driveWave_rxByteidx (s : State) (w : List Bool) :
    (s.driveWave w).rxByteidx = s.rxByteidx := by simp [State.driveWave]
@[simp] theorem State.driveWave_rxLen (s : State) (w : List Bool) :
    (s.driveWave w).rxLen = s.rxLen := by simp [State.driveWave]
@[simp] theorem State.driveWave_rxBuf (s : State) (w : List Bool) :
    (s.driveWave w).rxBuf = s.rxBuf := by simp [State.driveWave]
@[simp] theorem State.driveWave_notify (s : State) (w : List Bool) :
    (s.driveWave w).notify = s.notify := by simp [State.driveWave]
@[simp] theorem State.driveWave_ring (s : State) (w : List Bool) :
    (s.driveWave w).ring = s.ring := by simp [State.driveWave]
@[simp] theorem State.driveWave_inq (s : State) (w : List Bool) :
    (s.driveWave w).inq = s.inq := by simp [State.driveWave]
@[simp] theorem State.driveWave_outq (s : State) (w : List Bool) :
    (s.driveWave w).outq = s.outq := by simp [State.driveWave]
@[simp] theorem State.driveWave_arbState (s : State) (w : List Bool) :
    (s.driveWave w).arbState = s.arbState := by simp [State.driveWave]
@[simp] theorem State.driveWave_arbSub (s : State) (w : List Bool) :
    (s.driveWave w).arbSub = s.arbSub := by simp [State.driveWave]
@[simp] theorem State.driveWave_arbCnt (s : State) (w : List Bool) :
    (s.driveWave w).arbCnt = s.arbCnt := by simp [State.driveWave]
@[simp] theorem State.driveWave_txHeld (s : State) (w : List Bool) :
    (s.driveWave w).txHeld = s.txHeld := by simp [State.driveWave]
@[simp] theorem State.driveWave_txFrame (s : State) (w : List Bool) :
    (s.driveWave w).txFrame = s.txFrame := by simp [State.driveWave]
@[simp] theorem State.driveWave_txLen (s : State) (w : List Bool) :
    (s.driveWave w).txLen = s.txLen := by simp [State.driveWave]
@[simp] theorem State.driveWave_txByteidx (s : State) (w : List Bool) :
    (s.driveWave w).txByteidx = s.txByteidx := by simp [State.driveWave]
@[simp] theorem State.driveWave_txBitidx (s : State) (w : List Bool) :
    (s.driveWave w).txBitidx = s.txBitidx := by simp [State.driveWave]
@[simp] theorem State.driveWave_rdFrame (s : State) (w : List Bool) :
    (s.driveWave w).rdFrame = s.rdFrame := by simp [State.driveWave]
@[simp] theorem State.driveWave_rdLen (s : State) (w : List Bool) :
    (s.driveWave w).rdLen = s.rdLen := by simp [State.driveWave]
@[simp] theorem State.driveWave_statInvariant (s : State) (w : List Bool) :
    (s.driveWave w).statInvariant = s.statInvariant := by simp [State.driveWave]
@[simp] theorem State.driveWave_diagMode (s : State) (w : List Bool) :
    (s.driveWave w).diagMode = s.diagMode := by simp [State.driveWave]
@[simp] theorem State.driveWave_dsSync (s : State) (w : List Bool) :
    (s.driveWave w).dsSync = s.dsSync := by simp [State.driveWave]
@[simp] theorem State.driveWave_dsBsh (s : State) (w : List Bool) :
    (s.driveWave w).dsBsh = s.dsBsh := by simp [State.driveWave]
@[simp] theorem State.driveWave_dsBsl (s : State) (w : List Bool) :
    (s.driveWave w).dsBsl = s.dsBsl := by simp [State.driveWave]
@[simp] theorem State.driveWave_dsBit0 (s : State) (w : List Bool) :
    (s.driveWave w).dsBit0 = s.dsBit0 := by simp [State.driveWave]
@[simp] theorem State.driveWave_dsBit1 (s : State) (w : List Bool) :
    (s.driveWave w).dsBit1 = s.dsBit1 := by simp [State.driveWave]
@[simp] theorem State.driveWave_diagGrade (s : State) (w : List Bool) :
    (s.driveWave w).diagGrade = s.diagGrade := by simp [State.driveWave]
@[simp] theorem State.driveWave_diagViol (s : State) (w : List Bool) :
    (s.driveWave w).diagViol = s.diagViol := by simp [State.driveWave]
@[simp] theorem State.driveWave_deFall (s : State) (w : List Bool) :
    (s.driveWave w).deFall = s.deFall := by simp [State.driveWave]
@[simp] theorem State.driveWave_deRise (s : State) (w : List Bool) :
    (s.driveWave w).deRise = s.deRise := by simp [State.driveWave]
@[simp] theorem State.driveWave_dePeriod (s : State) (w : List Bool) :
    (s.driveWave w).dePeriod = s.dePeriod := by simp [State.driveWave]
@[simp] theorem State.driveWave_deStatus (s : State) (w : List Bool) :
    (s.driveWave w).deStatus = s.deStatus := by simp [State.driveWave]
@[simp] theorem State.driveWave_diagYield (s : State) (w : List Bool) :
    (s.driveWave w).diagYield = s.diagYield := by simp [State.driveWave]
@[simp] theorem State.driveWave_diagPhase (s : State) (w : List Bool) :
    (s.driveWave w).diagPhase = s.diagPhase := by simp [State.driveWave]
@[simp] theorem State.driveWave_diagCnt (s : State) (w : List Bool) :
    (s.driveWave w).diagCnt = s.diagCnt := by simp [State.driveWave]
@[simp] theorem State.driveWave_diagTmr (s : State) (w : List Bool) :
    (s.driveWave w).diagTmr = s.diagTmr := by simp [State.driveWave]
@[simp] theorem State.driveWave_diagBuf (s : State) (w : List Bool) :
    (s.driveWave w).diagBuf = s.diagBuf := by simp [State.driveWave]
@[simp] theorem State.driveWave_diagIdx (s : State) (w : List Bool) :
    (s.driveWave w).diagIdx = s.diagIdx := by simp [State.driveWave]
@[simp] theorem State.driveWave_diagBit (s : State) (w : List Bool) :
    (s.driveWave w).diagBit = s.diagBit := by simp [State.driveWave]
@[simp] theorem State.driveWave_subWait (s : State) (w : List Bool) :
    (s.driveWave w).subWait = s.subWait := by simp [State.driveWave]
@[simp] theorem State.driveWave_retWait (s : State) (w : List Bool) :
    (s.driveWave w).retWait = s.retWait := by simp [State.driveWave]
@[simp] theorem State.driveWave_diagOp (s : State) (w : List Bool) :
    (s.driveWave w).diagOp = s.diagOp := by simp [State.driveWave]
@[simp] theorem State.driveWave_diagShift (s : State) (w : List Bool) :
    (s.driveWave w).diagShift = s.diagShift := by simp [State.driveWave]
@[simp] theorem State.driveWave_diagAcc (s : State) (w : List Bool) :
    (s.driveWave w).diagAcc = s.diagAcc := by simp [State.driveWave]
@[simp] theorem State.driveWave_diagFall (s : State) (w : List Bool) :
    (s.driveWave w).diagFall = s.diagFall := by simp [State.driveWave]
@[simp] theorem State.driveWave_hostLock (s : State) (w : List Bool) :
    (s.driveWave w).hostLock = s.hostLock := by simp [State.driveWave]
@[simp] theorem State.driveWave_params (s : State) (w : List Bool) :
    (s.driveWave w).params = s.params := by simp [State.driveWave]
@[simp] theorem State.driveWave_cycle (s : State) (w : List Bool) :
    (s.driveWave w).cycle = s.cycle + w.length := by simp [State.driveWave]
@[simp] theorem State.driveWave_inputs (s : State) (w : List Bool) :
    (s.driveWave w).inputs = s.inputs.drop w.length := by simp [State.driveWave]
@[simp] theorem State.driveWave_calls (s : State) (w : List Bool) :
    (s.driveWave w).calls = s.calls := by simp [State.driveWave]
@[simp] theorem State.driveWave_drvTrace (s : State) (w : List Bool) :
    (s.driveWave w).drvTrace = w.reverse ++ s.drvTrace := by simp [State.driveWave]
@[simp] theorem State.driveWave_events (s : State) (w : List Bool) :
    (s.driveWave w).events = s.events := by simp [State.driveWave]
@[simp] theorem State.driveWave_replies (s : State) (w : List Bool) :
    (s.driveWave w).replies = s.replies := by simp [State.driveWave]

end Sys2Proof.Machine
end

