-- ==== Sys2Proof/Laws/Agents.lean ====
section
/-! SUPPORT. What each agent can write in a clock cycle, said once: everything else keeps its value. -/

namespace Sys2Proof.Machine

/-! ### RX -/

/-- `t` differs from `s` at most in what RX writes (10_state.md R32 to R36; DRV_LOW only in an unreachable phase). -/
def OnlyRx (s t : State) : Prop := t = { s with
    drvLow := t.drvLow
    rxActive := t.rxActive
    rxPhase := t.rxPhase
    rxCnt := t.rxCnt
    rxShift := t.rxShift
    rxBitidx := t.rxBitidx
    rxByteidx := t.rxByteidx
    rxLen := t.rxLen
    rxBuf := t.rxBuf
    notify := t.notify
    ring := t.ring
    statInvariant := t.statInvariant
    events := t.events }

theorem OnlyRx.refl (s : State) : OnlyRx s s := rfl

theorem OnlyRx.trans {s t u : State} (h : OnlyRx s t) (k : OnlyRx t u) : OnlyRx s u := by
  unfold OnlyRx at *
  rw [h] at k
  exact k

theorem endCapture_only (s0 s : State) (b : List Byte) : OnlyRx s (State.endCapture s0 s b) := by
  unfold State.endCapture
  split <;> exact rfl

theorem rxByteDone_only (s0 s : State) (b : Byte) : OnlyRx s (rxByteDone s0 s b) := by
  unfold rxByteDone
  generalize (if s0.rxByteidx = 0 then frameLen b else s0.rxLen.toNat) = len
  dsimp only
  split
  · exact rfl
  · refine OnlyRx.trans ?_ (endCapture_only s0 _ _)
    exact rfl

/-- RX writes its own registers, NOTIFY, RING, STAT_INVARIANT, DRV_LOW and the event history, and nothing else. -/
theorem rxCycle_only (s0 s : State) : OnlyRx s (rxCycle s0 s) := by
  unfold rxCycle
  split
  · unfold rxStep
    split
    · unfold rxSyncLow
      split
      · exact rfl
      · split <;> exact rfl
    · unfold rxSyncHigh
      split <;> split <;> exact rfl
    · unfold rxBsLow
      split
      · exact rfl
      · split <;> exact rfl
    · unfold rxBitLow
      split
      · exact rfl
      · split <;> exact rfl
    · unfold rxBitHigh
      split
      · split <;> exact rfl
      · unfold rxBitDone
        dsimp only
        split
        · exact rxByteDone_only s0 s _
        · exact rfl
    · exact rfl
  · split <;> exact rfl

/-! ### ARB -/

/-- `t` differs from `s` at most in what ARB writes (10_state.md R28, R35 to R43). -/
def OnlyArb (s t : State) : Prop := t = { s with
    drvLow := t.drvLow
    notify := t.notify
    ring := t.ring
    inq := t.inq
    outq := t.outq
    arbState := t.arbState
    arbSub := t.arbSub
    arbCnt := t.arbCnt
    txHeld := t.txHeld
    txFrame := t.txFrame
    txLen := t.txLen
    txByteidx := t.txByteidx
    txBitidx := t.txBitidx
    rdFrame := t.rdFrame
    rdLen := t.rdLen
    statInvariant := t.statInvariant
    events := t.events }

theorem OnlyArb.refl (s : State) : OnlyArb s s := rfl

theorem OnlyArb.trans {s t u : State} (h : OnlyArb s t) (k : OnlyArb t u) : OnlyArb s u := by
  unfold OnlyArb at *
  rw [h] at k
  exact k

theorem arbWaiting_only (s0 s : State) : OnlyArb s (arbWaiting s0 s) := by
  unfold arbWaiting
  split
  · exact rfl
  · split
    · exact rfl
    · split <;> exact rfl

theorem arbListening_only (s0 s : State) : OnlyArb s (arbListening s0 s) := by
  unfold arbListening
  split
  · unfold listenBackoff
    split
    · exact rfl
    · split <;> exact rfl
  · unfold listenCheck
    split <;> exact rfl

theorem startSyncLow_only (s0 s : State) : OnlyArb s (startSyncLow s0 s) := by
  have h : OnlyArb s (State.raiseTxStart s0 s) := by
    unfold State.raiseTxStart
    split <;> exact rfl
  unfold startSyncLow
  dsimp only
  split <;> exact h.trans rfl

theorem arbStarting_only (s0 s : State) : OnlyArb s (arbStarting s0 s) := by
  unfold arbStarting
  split
  · unfold startBsHigh
    split <;> exact rfl
  · split
    · unfold startBsLow
      split <;> exact rfl
    · exact startSyncLow_only s0 s

theorem guardEnd_only (s0 s : State) : OnlyArb s (guardEnd s0 s) := by
  unfold guardEnd
  split
  · exact rfl
  · split <;> exact rfl

theorem arbSending_only (s0 s : State) : OnlyArb s (arbSending s0 s) := by
  unfold arbSending
  split
  · unfold sendGuard
    split
    · split <;> exact rfl
    · split
      · exact guardEnd_only s0 s
      · exact rfl
  · unfold sendHigh
    dsimp only
    split
    · exact rfl
    · split
      · exact rfl
      · split
        · split <;> exact rfl
        · exact rfl

theorem arbReading_only (s0 s : State) : OnlyArb s (arbReading s0 s) := by
  unfold arbReading
  split
  · unfold readWait
    split
    · exact rfl
    · split <;> exact rfl
  · unfold readPop
    split <;> exact rfl

/-- Running an operation that writes only what ARB may write does so too, whether ARB_SUB is defined or not. -/
theorem arbRun_only (op : State → State → State) (h : ∀ s0 s, OnlyArb s (op s0 s)) (s0 s : State) :
    OnlyArb s (arbRun op s0 s) := by
  have f : OnlyArb s s.flagInvariant := rfl
  unfold arbRun
  split
  · exact h s0 s
  · split
    · exact (f.trans (h s0 _)).trans rfl
    · exact rfl

/-- A defined ARB_SUB changes nothing of the operation. -/
theorem arbRun_defined (op : State → State → State) (s0 s : State) (h : s0.arbSubDefined = true) :
    arbRun op s0 s = op s0 s := by simp [arbRun, h]

/-- A step of ARB writes its own registers and buffers, DRV_LOW, NOTIFY, the FIFOs, STAT_INVARIANT and the event
history, and nothing else. -/
theorem arbStep_only (s0 s : State) : OnlyArb s (arbStep s0 s) := by
  unfold arbStep
  split
  · exact arbRun_only _ arbWaiting_only s0 s
  · exact arbRun_only _ arbListening_only s0 s
  · exact arbRun_only _ arbStarting_only s0 s
  · exact arbRun_only _ arbSending_only s0 s
  · exact arbRun_only _ arbReading_only s0 s
  · exact rfl

theorem arbCycle_only (s0 s : State) : OnlyArb s (arbCycle s0 s) := by
  unfold arbCycle
  split
  · exact arbStep_only s0 s
  · exact rfl

/-- ARB writes nothing in a cycle in which it is frozen or not configured (44_arbitration.md R215, R216). -/
theorem arbCycle_still (s0 s : State) (h : s0.arbRuns s.hostLock = false) : arbCycle s0 s = s := by
  simp [arbCycle, h]

/-! ### The waiting calls of HOST -/

/-- `t` differs from `s` at most in what a waiting call writes (45_host_ops.md R256, R259). -/
def OnlyHost (s t : State) : Prop := t = { s with
    inq := t.inq
    outq := t.outq
    subWait := t.subWait
    retWait := t.retWait
    events := t.events
    replies := t.replies }

theorem OnlyHost.refl (s : State) : OnlyHost s s := rfl

theorem OnlyHost.trans {s t u : State} (h : OnlyHost s t) (k : OnlyHost t u) : OnlyHost s u := by
  unfold OnlyHost at *
  rw [h] at k
  exact k

/-- The waiting calls write INQ, OUTQ, their own fields and the histories, and nothing else. -/
theorem hostCycle_only (s0 s : State) : OnlyHost s (hostCycle s0 s) := by
  have hr : OnlyHost s (retrieveCycle s0 s) := by
    unfold retrieveCycle
    split
    · split <;> exact rfl
    · exact rfl
  refine hr.trans ?_
  unfold hostCycle submitCycle
  split
  · exact rfl
  · split
    · exact rfl
    · unfold submitWaits
      split
      · exact rfl
      · split <;> exact rfl

/-- With no call waiting the waiting calls do nothing. -/
theorem hostCycle_none (s0 s : State) (h1 : s0.subWait = none) (h2 : s0.retWait = false) : hostCycle s0 s = s := by
  simp [hostCycle, submitCycle, retrieveCycle, h1, h2]

/-! ### DIAG -/

/-- `t` differs from `s` at most in what DIAG writes (10_state.md R28, R43 to R48). -/
def OnlyDiag (s t : State) : Prop := t = { s with
    drvLow := t.drvLow
    diagMode := t.diagMode
    dsSync := t.dsSync
    dsBsh := t.dsBsh
    dsBsl := t.dsBsl
    dsBit0 := t.dsBit0
    dsBit1 := t.dsBit1
    diagGrade := t.diagGrade
    diagViol := t.diagViol
    deFall := t.deFall
    deRise := t.deRise
    dePeriod := t.dePeriod
    deStatus := t.deStatus
    diagYield := t.diagYield
    diagPhase := t.diagPhase
    diagCnt := t.diagCnt
    diagTmr := t.diagTmr
    diagBuf := t.diagBuf
    diagIdx := t.diagIdx
    diagBit := t.diagBit
    diagOp := t.diagOp
    diagShift := t.diagShift
    diagAcc := t.diagAcc
    diagFall := t.diagFall
    statInvariant := t.statInvariant
    events := t.events
    replies := t.replies }

theorem OnlyDiag.refl (s : State) : OnlyDiag s s := rfl

theorem OnlyDiag.trans {s t u : State} (h : OnlyDiag s t) (k : OnlyDiag t u) : OnlyDiag s u := by
  unfold OnlyDiag at *
  rw [h] at k
  exact k

theorem elecStep_only (s0 s : State) : OnlyDiag s (elecStep s0 s) := by
  unfold elecStep
  split
  · unfold elecFall
    split
    · exact rfl
    · split
      · dsimp only
        split <;> exact rfl
      · exact rfl
  · unfold elecRise
    split
    · exact rfl
    · split <;> exact rfl
  · exact rfl

theorem recordWidth_only (s0 s : State) (v : Bool) : OnlyDiag s (State.recordWidth s0 s v) := by
  unfold State.recordWidth
  split <;> split <;> exact rfl

theorem timingByteDone_only (s0 s : State) (b : Byte) : OnlyDiag s (timingByteDone s0 s b) := by
  unfold timingByteDone
  dsimp only
  split <;> exact rfl

theorem timingBitHigh_only (s0 s : State) : OnlyDiag s (timingBitHigh s0 s) := by
  unfold timingBitHigh
  split
  · exact rfl
  · split
    · split <;> exact rfl
    · unfold timingBitDone
      dsimp only
      split
      · exact (recordWidth_only s0 s _).trans (timingByteDone_only s0 _ _)
      · exact (recordWidth_only s0 s _).trans rfl

theorem timingStep_only (s0 s : State) : OnlyDiag s (timingStep s0 s) := by
  unfold timingStep
  split
  · unfold timingEdge
    split
    · exact rfl
    · split <;> exact rfl
  · unfold timingSyncLow
    split
    · exact rfl
    · split <;> exact rfl
  · unfold timingSyncHigh
    split
    · exact rfl
    · split <;> exact rfl
  · unfold timingBsLow
    split
    · exact rfl
    · split <;> exact rfl
  · unfold timingBitLow
    split
    · exact rfl
    · split
      · exact rfl
      · split <;> exact rfl
  · exact timingBitHigh_only s0 s
  · unfold timingLastGuard
    split
    · exact rfl
    · split
      · exact rfl
      · split <;> exact rfl
  · unfold timingTrailing
    split
    · exact rfl
    · split
      · exact rfl
      · split <;> exact rfl
  · exact rfl

theorem injectHigh_only (s0 s : State) (n : Nat) : OnlyDiag s (State.injectHigh s0 s n) := by
  unfold State.injectHigh
  split <;> exact rfl

theorem yieldStep_only (s0 s : State) : OnlyDiag s (yieldStep s0 s) := by
  unfold yieldStep
  split
  · unfold yieldEdge
    split
    · exact rfl
    · split <;> exact rfl
  · unfold yieldSyncLow
    split
    · exact rfl
    · split
      · exact rfl
      · split <;> exact rfl
  · unfold yieldSyncHigh
    split
    · exact rfl
    · split
      · split <;> exact rfl
      · split <;> exact rfl
  · unfold yieldBsLow
    split
    · exact rfl
    · split
      · exact rfl
      · split <;> exact rfl
  · unfold yieldBitLow
    split
    · exact rfl
    · split
      · exact rfl
      · split <;> exact rfl
  · unfold yieldBitHigh
    split
    · exact rfl
    · split
      · split <;> exact rfl
      · dsimp only
        split <;> exact rfl
  · unfold yieldGuard
    split
    · exact rfl
    · split
      · split
        · exact rfl
        · refine OnlyDiag.trans ?_ (injectHigh_only s0 _ 1)
          exact rfl
      · split <;> exact rfl
  · exact injectHigh_only s0 s _
  · unfold yieldInjLow
    split
    · exact rfl
    · split <;> exact rfl
  · unfold yieldAfterHigh
    split
    · split <;> exact rfl
    · exact rfl
  · unfold yieldAfterLow
    split
    · exact rfl
    · split <;> exact rfl
  · split <;> exact rfl
  · exact rfl

/-- DIAG writes its own registers, DRV_LOW, STAT_INVARIANT and the histories, and nothing else. -/
theorem diagCycle_only (s0 s : State) : OnlyDiag s (diagCycle s0 s) := by
  unfold diagCycle
  split
  · unfold diagStep
    split
    · exact elecStep_only s0 s
    · exact timingStep_only s0 s
    · exact yieldStep_only s0 s
    · exact rfl
  · exact rfl

/-- With no probe running DIAG does nothing. -/
theorem diagCycle_still (s0 s : State) (h : s0.diagMode = false) : diagCycle s0 s = s := by simp [diagCycle, h]

end Sys2Proof.Machine
end

