-- ==== Sys2Proof/Laws/Line.lean ====
section
/-! SUPPORT. What each function of a line trace can answer: runs, SAMPLE_BIT, SAMPLE_BYTE, DRIVE_BIT, and the length of
each waveform. -/

namespace Sys2Proof.Machine

/-! ### Runs -/

theorem runLen_le (tr : Nat → Bool) (lvl : Bool) (f t : Nat) : runLen tr lvl f t ≤ f := by
  induction f generalizing t with
  | zero => simp [runLen]
  | succ f ih =>
    unfold runLen
    split
    · have := ih (t + 1); omega
    · omega

/-- Every cycle of the counted run is at the level. -/
theorem runLen_level (tr : Nat → Bool) (lvl : Bool) (f t k : Nat) (h : k < runLen tr lvl f t) : tr (t + k) = lvl := by
  induction f generalizing t k with
  | zero => simp [runLen] at h
  | succ f ih =>
    unfold runLen at h
    split at h
    · next h0 =>
      cases k with
      | zero => exact h0
      | succ k =>
        have := ih (t + 1) k (by omega)
        rwa [show t + (k + 1) = t + 1 + k by omega]
    · omega

/-- A run that ends inside its bound ends at the other level. -/
theorem runLen_stop (tr : Nat → Bool) (lvl : Bool) (f t : Nat) (h : runLen tr lvl f t < f) :
    tr (t + runLen tr lvl f t) ≠ lvl := by
  induction f generalizing t with
  | zero => omega
  | succ f ih =>
    unfold runLen at h ⊢
    split
    · next h0 =>
      simp only [h0, if_true] at h
      rw [show t + (runLen tr lvl f (t + 1) + 1) = t + 1 + runLen tr lvl f (t + 1) by omega]
      exact ih (t + 1) (by omega)
    · next h0 => simpa using h0

/-- A run of `n` cycles that ends inside the bound counts `n`. -/
theorem runLen_eq (tr : Nat → Bool) (lvl : Bool) {f t n : Nat} (hn : n < f) (h : ∀ k, k < n → tr (t + k) = lvl)
    (he : tr (t + n) ≠ lvl) : runLen tr lvl f t = n := by
  induction f generalizing t n with
  | zero => omega
  | succ f ih =>
    unfold runLen
    cases n with
    | zero => simp only [Nat.add_zero] at he; simp [he]
    | succ n =>
      have h0 : tr t = lvl := by simpa using h 0 (by omega)
      simp only [h0, if_true]
      congr 1
      refine ih (by omega) ?_ ?_
      · intro k hk
        have := h (k + 1) (by omega)
        rwa [show t + (k + 1) = t + 1 + k by omega] at this
      · rwa [show t + (n + 1) = t + 1 + n by omega] at he

/-- A run that fills the bound counts the bound. -/
theorem runLen_full (tr : Nat → Bool) (lvl : Bool) {f t : Nat} (h : ∀ k, k < f → tr (t + k) = lvl) :
    runLen tr lvl f t = f := by
  induction f generalizing t with
  | zero => rfl
  | succ f ih =>
    unfold runLen
    have h0 : tr t = lvl := by simpa using h 0 (by omega)
    simp only [h0, if_true]
    congr 1
    refine ih ?_
    intro k hk
    have := h (k + 1) (by omega)
    rwa [show t + (k + 1) = t + 1 + k by omega] at this

/-! ### SAMPLE_BIT -/

/-- A low phase within its bound and a high phase within its bound give the bit (40_bit_codec.md R141 to R143). -/
theorem sampleBitAt_bit (tr : Nat → Bool) (p : Timing) {t n h : Nat} (hn : n ≤ p.lowTmo)
    (hl : ∀ k, k < n → tr (t + k) = false) (h0 : 0 < h) (hh : h ≤ p.highTmo)
    (hu : ∀ k, k < h → tr (t + n + k) = true) (he : tr (t + n + h) = false) :
    sampleBitAt tr p t = ⟨.bit (p.classify h), h, t + n + h⟩ := by
  have e1 : runLen tr false (p.lowTmo + 1) t = n :=
    runLen_eq tr false (by omega) hl (by have := hu 0 h0; simp at this; simp [this])
  have e2 : runLen tr true (p.highTmo + 1) (t + n) = h := runLen_eq tr true (by omega) hu (by simp [he])
  simp only [sampleBitAt, e1, e2]
  rw [if_neg (by omega), if_neg (by omega)]

/-- A low phase past its bound is LOW_STUCK (40_bit_codec.md R145). -/
theorem sampleBitAt_low (tr : Nat → Bool) (p : Timing) {t : Nat} (hl : ∀ k, k < p.lowTmo + 1 → tr (t + k) = false) :
    sampleBitAt tr p t = ⟨.fault .lowStuck, 0, t + p.lowTmo⟩ := by
  simp only [sampleBitAt, runLen_full tr false hl]
  rw [if_pos (by omega)]

/-- A high phase past its bound is HIGH_STUCK (40_bit_codec.md R144). -/
theorem sampleBitAt_high (tr : Nat → Bool) (p : Timing) {t n : Nat} (hn : n ≤ p.lowTmo)
    (hl : ∀ k, k < n → tr (t + k) = false) (hu : ∀ k, k < p.highTmo + 1 → tr (t + n + k) = true) :
    sampleBitAt tr p t = ⟨.fault .highStuck, p.highTmo, t + n + p.highTmo⟩ := by
  have e1 : runLen tr false (p.lowTmo + 1) t = n :=
    runLen_eq tr false (by omega) hl (by have := hu 0 (by omega); simp at this; simp [this])
  simp only [sampleBitAt, e1, runLen_full tr true hu]
  rw [if_neg (by omega), if_pos (by omega)]

/-- SAMPLE_BIT never ends before it starts. -/
theorem sampleBitAt_le (tr : Nat → Bool) (p : Timing) (t : Nat) : t ≤ (sampleBitAt tr p t).tEnd := by
  unfold sampleBitAt
  dsimp only
  split
  · dsimp only; omega
  · split
    · dsimp only; omega
    · dsimp only; omega

theorem sampleBitsAt_le (tr : Nat → Bool) (p : Timing) (k t : Nat) (b : Byte) :
    t ≤ (sampleBitsAt tr p k t b).tEnd := by
  induction k generalizing t b with
  | zero => simp [sampleBitsAt]
  | succ k ih =>
    have h1 := sampleBitAt_le tr p t
    unfold sampleBitsAt
    dsimp only
    split
    · next v _ => exact Nat.le_trans h1 (ih _ _)
    · exact h1

theorem sampleByteAt_le (tr : Nat → Bool) (p : Timing) (t : Nat) : t ≤ (sampleByteAt tr p t).tEnd :=
  sampleBitsAt_le tr p 8 t 0

/-! ### Bits of a byte under assembly -/

theorem setBit_getLsbD (b : Byte) (i : Nat) (v : Bool) (j : Nat) (hi : i < 8) :
    (setBit b i v).getLsbD j = if j = i then v else b.getLsbD j := by
  have h1 : ((1 : Byte) <<< i).getLsbD j = decide (j = i) := by
    rw [BitVec.getLsbD_shiftLeft]
    by_cases hj : j = i
    · subst hj; simp [hi]
    · by_cases hlt : j < i
      · simp [hlt, hj]
      · have : j - i ≠ 0 := by omega
        simp [hj, BitVec.getLsbD_one, this]
  unfold setBit
  cases v with
  | true =>
    rw [if_pos rfl, BitVec.getLsbD_or, h1]
    by_cases hj : j = i <;> simp [hj]
  | false =>
    rw [if_neg (by decide), BitVec.getLsbD_and, BitVec.getLsbD_not, h1]
    by_cases hj : j = i
    · simp [hj]
    · by_cases h8 : j < 8
      · simp [hj, h8]
      · simp [hj, BitVec.getLsbD_of_ge b j (Nat.le_of_not_lt h8)]

/-! ### Waveforms -/

@[simp] theorem cellWave_length (p : Timing) (v : Bool) : (cellWave p v).length = p.cellHigh v + Config.guardCyc := by
  simp [cellWave]

@[simp] theorem syncWave_length (n : Nat) : (syncWave n).length = n := by simp [syncWave]

@[simp] theorem bitSyncWave_length (p : Timing) : (bitSyncWave p).length = 2 * p.bitSync := by
  simp [bitSyncWave]; omega

@[simp] theorem startWave_length (p : Timing) (n : Nat) : (startWave p n).length = n + 2 * p.bitSync := by
  simp [startWave]

/-- DRIVE_BIT's waveform is as long as the operation. -/
theorem driveBitAt_length (tr : Nat → Bool) (p : Timing) (v : Bool) (t : Nat) :
    (driveBitAt tr p v t).tNext = t + (driveBitAt tr p v t).wave.length := by
  unfold driveBitAt
  dsimp only
  split
  · simp
  · simp only [cellWave_length]; omega

/-- A cell that neither check finds low takes the whole cell (40_bit_codec.md R147). -/
theorem driveBitAt_free (tr : Nat → Bool) (p : Timing) (v : Bool) (t : Nat)
    (h1 : tr (t + p.cellHigh v - 1) = true) (h2 : tr (t + p.cellHigh v + Config.guardCyc) = true) :
    driveBitAt tr p v t = ⟨none, t + p.cellHigh v + Config.guardCyc, cellWave p v⟩ := by
  simp [driveBitAt, h1, h2]

theorem sendBitsAt_length (tr : Nat → Bool) (p : Timing) (b : Byte) (k t : Nat) :
    (sendBitsAt tr p b k t).tNext = t + (sendBitsAt tr p b k t).wave.length := by
  induction k generalizing t with
  | zero => simp [sendBitsAt]
  | succ k ih =>
    have hd := driveBitAt_length tr p (b.getLsbD k) t
    unfold sendBitsAt
    dsimp only
    split
    · exact hd
    · dsimp only
      rw [ih, hd, List.length_append]
      omega

theorem sendByteAt_length (tr : Nat → Bool) (p : Timing) (b : Byte) (t : Nat) :
    (sendByteAt tr p b t).tNext = t + (sendByteAt tr p b t).wave.length := sendBitsAt_length tr p b 8 t

theorem sendBytesAt_length (tr : Nat → Bool) (p : Timing) (b : List Byte) (j t : Nat) :
    (sendBytesAt tr p b j t).tEnd = t + (sendBytesAt tr p b j t).wave.length := by
  induction b generalizing j t with
  | nil => simp [sendBytesAt]
  | cons x b ih =>
    have hd := sendByteAt_length tr p x t
    unfold sendBytesAt
    dsimp only
    split
    · exact hd
    · dsimp only
      rw [ih, hd, List.length_append]
      omega

/-! ### Lengths of frames -/

theorem frameLen_pos (t : Byte) : 1 ≤ frameLen t := by
  unfold frameLen
  split
  · decide
  · next h =>
    have : t.toNat ≠ 0 := fun h' => h (BitVec.eq_of_toNat_eq (by simpa using h'))
    omega

theorem frameLen_le (t : Byte) : frameLen t ≤ Config.maxFrame := by
  unfold frameLen
  split
  · decide
  · have := t.isLt
    show t.toNat ≤ 255
    omega

/-- SUBMIT's length test (45_host_ops.md R254): the sequence is as long as its first byte says. -/
theorem fitsTag_iff (b : List Byte) : fitsTag b = true ↔ ∃ t r, b = t :: r ∧ b.length = frameLen t := by
  cases b with
  | nil => simp [fitsTag]
  | cons t r =>
    simp only [fitsTag, Bool.and_eq_true, decide_eq_true_eq, List.length_cons]
    constructor
    · intro h; exact ⟨t, r, rfl, h.2⟩
    · rintro ⟨t', r', h, hl⟩
      cases h
      have := frameLen_le t
      exact ⟨by omega, hl⟩

theorem fitsTag_length {b : List Byte} (h : fitsTag b = true) : 1 ≤ b.length ∧ b.length ≤ Config.maxFrame := by
  obtain ⟨t, r, rfl, hl⟩ := (fitsTag_iff b).mp h
  rw [hl]
  exact ⟨frameLen_pos t, frameLen_le t⟩

end Sys2Proof.Machine
end

