-- ==== Sys2Proof/Laws/Memory.lean ====
section
/-! SUPPORT. The laws of the storage buffers: a read after a write, and that every operation keeps the canonical
form. -/

namespace Sys2Proof.Machine

/-! ### Reads -/

@[simp] theorem Memory.read_nil (i : Nat) : Memory.read [] i = unwritten := rfl

theorem Memory.read_put_same (i : Nat) (b : Byte) (m : Memory) (h : Memory.read m i = unwritten) :
    Memory.read (Memory.put i b m) i = b := by
  unfold Memory.put
  split
  · next hb => rw [h, hb]
  · simp [Memory.read]

theorem Memory.read_put_other (i j : Nat) (b : Byte) (m : Memory) (h : i ≠ j) :
    Memory.read (Memory.put i b m) j = Memory.read m j := by
  unfold Memory.put
  split
  · rfl
  · simp [Memory.read, h]

/-- Nothing below the lower bound of a canonical list is listed. -/
theorem Memory.read_below {lo : Nat} {m : Memory} (h : Memory.wfFrom lo m = true) {i : Nat} (hi : i < lo) :
    Memory.read m i = unwritten := by
  induction m generalizing lo with
  | nil => rfl
  | cons c m ih =>
    simp only [Memory.wfFrom, Bool.and_eq_true, decide_eq_true_eq] at h
    have hc : c.1 ≠ i := by omega
    simp only [Memory.read, hc, if_false]
    exact ih h.2 (by omega)

/-- A write leaves every other byte alone. -/
theorem Memory.read_write_other (m : Memory) (i j : Nat) (b : Byte) (h : i ≠ j) :
    Memory.read (Memory.write m i b) j = Memory.read m j := by
  induction m with
  | nil => exact Memory.read_put_other i j b [] h
  | cons c m ih =>
    unfold Memory.write
    split
    · simp [Memory.read, ih]
    · split
      · next hc =>
        rw [Memory.read_put_other i j b m h]
        simp [Memory.read, hc, h]
      · rw [Memory.read_put_other i j b _ h]

/-- A read after a write gives the byte written. -/
theorem Memory.read_write_from {lo : Nat} {m : Memory} (h : Memory.wfFrom lo m = true) (i : Nat) (b : Byte) :
    Memory.read (Memory.write m i b) i = b := by
  induction m generalizing lo with
  | nil => exact Memory.read_put_same i b [] rfl
  | cons c m ih =>
    simp only [Memory.wfFrom, Bool.and_eq_true, decide_eq_true_eq] at h
    unfold Memory.write
    split
    · have hc : c.1 ≠ i := by omega
      simp only [Memory.read, hc, if_false]
      exact ih h.2
    · split
      · next hc => exact Memory.read_put_same i b m (Memory.read_below h.2 (by omega))
      · next h1 h2 =>
        refine Memory.read_put_same i b _ ?_
        simp only [Memory.read, h2, if_false]
        exact Memory.read_below h.2 (by omega)

theorem Memory.read_write_same {m : Memory} (h : m.wf = true) (i : Nat) (b : Byte) :
    Memory.read (Memory.write m i b) i = b := Memory.read_write_from h i b

/-! ### The canonical form -/

@[simp] theorem Memory.wf_nil : Memory.wf [] = true := rfl

theorem Memory.wfFrom_mono {lo lo' : Nat} {m : Memory} (h : Memory.wfFrom lo m = true) (hl : lo' ≤ lo) :
    Memory.wfFrom lo' m = true := by
  cases m with
  | nil => rfl
  | cons c m =>
    simp only [Memory.wfFrom, Bool.and_eq_true, decide_eq_true_eq] at h ⊢
    exact ⟨⟨⟨by omega, h.1.1.2⟩, h.1.2⟩, h.2⟩

theorem Memory.wfFrom_put {lo i : Nat} {b : Byte} {m : Memory} (h : Memory.wfFrom (i + 1) m = true) (hlo : lo ≤ i)
    (hi : i < Config.maxFrame) : Memory.wfFrom lo (Memory.put i b m) = true := by
  unfold Memory.put
  split
  · exact Memory.wfFrom_mono h (by omega)
  · next hb =>
    simp only [Memory.wfFrom, Bool.and_eq_true, decide_eq_true_eq]
    exact ⟨⟨⟨hlo, hi⟩, hb⟩, h⟩

theorem Memory.wfFrom_write {lo : Nat} {m : Memory} (h : Memory.wfFrom lo m = true) {i : Nat} (hlo : lo ≤ i)
    (hi : i < Config.maxFrame) (b : Byte) : Memory.wfFrom lo (Memory.write m i b) = true := by
  induction m generalizing lo with
  | nil => exact Memory.wfFrom_put rfl hlo hi
  | cons c m ih =>
    have h0 := h
    simp only [Memory.wfFrom, Bool.and_eq_true, decide_eq_true_eq] at h
    unfold Memory.write
    split
    · simp only [Memory.wfFrom, Bool.and_eq_true, decide_eq_true_eq]
      exact ⟨h.1, ih h.2 (by omega)⟩
    · split
      · next hc => subst hc; exact Memory.wfFrom_put h.2 hlo hi
      · refine Memory.wfFrom_put ?_ hlo hi
        simp only [Memory.wfFrom, Bool.and_eq_true, decide_eq_true_eq]
        exact ⟨⟨⟨by omega, h.1.1.2⟩, h.1.2⟩, h.2⟩

/-- A write of a byte the buffer has keeps the canonical form. -/
theorem Memory.wf_write {m : Memory} (h : m.wf = true) {i : Nat} (hi : i < Config.maxFrame) (b : Byte) :
    (Memory.write m i b).wf = true := Memory.wfFrom_write h (Nat.zero_le i) hi b

/-- Consecutive writes inside the buffer keep the canonical form. -/
theorem Memory.wf_writeFrom {m : Memory} (h : m.wf = true) {i : Nat} {b : List Byte}
    (hi : i + b.length ≤ Config.maxFrame) : (Memory.writeFrom m i b).wf = true := by
  induction b generalizing m i with
  | nil => exact h
  | cons x b ih =>
    rw [List.length_cons] at hi
    exact ih (Memory.wf_write h (by omega) x) (by omega)

/-! ### Consecutive writes, read back -/

/-- Consecutive writes leave the bytes outside them alone. -/
theorem Memory.read_writeFrom_other (m : Memory) (i j : Nat) (b : List Byte) (h : j < i ∨ i + b.length ≤ j) :
    Memory.read (Memory.writeFrom m i b) j = Memory.read m j := by
  induction b generalizing m i with
  | nil => rfl
  | cons x b ih =>
    rw [List.length_cons] at h
    have := ih (Memory.write m i x) (i + 1) (by omega)
    rw [Memory.writeFrom, this, Memory.read_write_other m i j x (by omega)]

/-- Consecutive writes, read back byte by byte. -/
theorem Memory.read_writeFrom {m : Memory} (h : m.wf = true) {i : Nat} {b : List Byte}
    (hi : i + b.length ≤ Config.maxFrame) {k : Nat} (hk : k < b.length) :
    Memory.read (Memory.writeFrom m i b) (i + k) = b[k] := by
  induction b generalizing m i k with
  | nil => simp at hk
  | cons x b ih =>
    rw [List.length_cons] at hi hk
    have hw := Memory.wf_write h (i := i) (by omega) x
    rw [Memory.writeFrom]
    cases k with
    | zero =>
      show Memory.read (Memory.writeFrom (Memory.write m i x) (i + 1) b) i = x
      rw [Memory.read_writeFrom_other _ (i + 1) i b (by omega)]
      exact Memory.read_write_same h i x
    | succ k =>
      have hk' : k < b.length := by omega
      have e : i + (k + 1) = (i + 1) + k := by omega
      rw [e, ih hw (by omega) hk']
      rfl

@[simp] theorem Memory.take_length (m : Memory) (n : Nat) : (m.take n).length = n := by simp [Memory.take]

/-- The bytes written from index 0 on, taken back. -/
theorem Memory.take_writeFrom {m : Memory} (h : m.wf = true) {b : List Byte} (hb : b.length ≤ Config.maxFrame) :
    (Memory.writeFrom m 0 b).take b.length = b := by
  refine List.ext_getElem (by simp) ?_
  intro k h1 h2
  have := Memory.read_writeFrom h (i := 0) (b := b) (by omega) h2
  simpa [Memory.take] using this

end Sys2Proof.Machine
end

