-- ==== Sys2Proof/Laws/PerInstr.lean ====
section
/-! SUPPORT. Statements made of every operation, one lemma for each constructor: the ids HOST may issue. -/

namespace Sys2Proof.Laws

/-- The ids that 30_encoding.md R120 marks as issued by HOST. -/
def hostIds : List Byte := [0x13, 0x40, 0x41, 0x42, 0x43, 0x50, 0x51, 0x52]

/-- An operation's record begins with a HOST id exactly when HOST issues the operation, and an operation of HOST is a
call of one cycle. -/
def HostIds.Statement (i : Instr) : Prop :=
  ((encode i).head? = some (opId i) ∧ (opId i ∈ hostIds ↔ issuerOf i = .host))
  ∧ (kindOf i = .call ↔ issuerOf i = .host)

theorem HostIds.sampleBit : HostIds.Statement .sampleBit :=
  ⟨⟨rfl, by simp [opId, hostIds, issuerOf]⟩, by simp [kindOf, issuerOf]⟩
theorem HostIds.sampleByte : HostIds.Statement .sampleByte :=
  ⟨⟨rfl, by simp [opId, hostIds, issuerOf]⟩, by simp [kindOf, issuerOf]⟩
theorem HostIds.driveBit (v : Bool) : HostIds.Statement (.driveBit v) :=
  ⟨⟨rfl, by simp [opId, hostIds, issuerOf]⟩, by simp [kindOf, issuerOf]⟩
theorem HostIds.decodeHeader (t : Byte) : HostIds.Statement (.decodeHeader t) :=
  ⟨⟨rfl, by simp [opId, hostIds, issuerOf]⟩, by simp [kindOf, issuerOf]⟩
theorem HostIds.serialize (f : Frame) : HostIds.Statement (.serialize f) :=
  ⟨⟨rfl, by simp [opId, hostIds, issuerOf]⟩, by simp [kindOf, issuerOf]⟩
theorem HostIds.deserialize (b : List Byte) : HostIds.Statement (.deserialize b) :=
  ⟨⟨rfl, by simp [opId, hostIds, issuerOf]⟩, by simp [kindOf, issuerOf]⟩
theorem HostIds.validate (b : List Byte) : HostIds.Statement (.validate b) :=
  ⟨⟨rfl, by simp [opId, hostIds, issuerOf]⟩, by simp [kindOf, issuerOf]⟩
theorem HostIds.rxFrame : HostIds.Statement .rxFrame :=
  ⟨⟨rfl, by simp [opId, hostIds, issuerOf]⟩, by simp [kindOf, issuerOf]⟩
theorem HostIds.startFrame : HostIds.Statement .startFrame :=
  ⟨⟨rfl, by simp [opId, hostIds, issuerOf]⟩, by simp [kindOf, issuerOf]⟩
theorem HostIds.sendByte (b : Byte) : HostIds.Statement (.sendByte b) :=
  ⟨⟨rfl, by simp [opId, hostIds, issuerOf]⟩, by simp [kindOf, issuerOf]⟩
theorem HostIds.sendFrame (b : List Byte) : HostIds.Statement (.sendFrame b) :=
  ⟨⟨rfl, by simp [opId, hostIds, issuerOf]⟩, by simp [kindOf, issuerOf]⟩
theorem HostIds.arbWaiting : HostIds.Statement .arbWaiting :=
  ⟨⟨rfl, by simp [opId, hostIds, issuerOf]⟩, by simp [kindOf, issuerOf]⟩
theorem HostIds.arbListening : HostIds.Statement .arbListening :=
  ⟨⟨rfl, by simp [opId, hostIds, issuerOf]⟩, by simp [kindOf, issuerOf]⟩
theorem HostIds.arbStarting : HostIds.Statement .arbStarting :=
  ⟨⟨rfl, by simp [opId, hostIds, issuerOf]⟩, by simp [kindOf, issuerOf]⟩
theorem HostIds.arbSending : HostIds.Statement .arbSending :=
  ⟨⟨rfl, by simp [opId, hostIds, issuerOf]⟩, by simp [kindOf, issuerOf]⟩
theorem HostIds.arbReading : HostIds.Statement .arbReading :=
  ⟨⟨rfl, by simp [opId, hostIds, issuerOf]⟩, by simp [kindOf, issuerOf]⟩
theorem HostIds.init (m : BusMode) : HostIds.Statement (.init m) :=
  ⟨⟨rfl, by simp [opId, hostIds, issuerOf]⟩, by simp [kindOf, issuerOf]⟩
theorem HostIds.submit (b : List Byte) (w : Wait) : HostIds.Statement (.submit b w) :=
  ⟨⟨rfl, by simp [opId, hostIds, issuerOf]⟩, by simp [kindOf, issuerOf]⟩
theorem HostIds.retrieve : HostIds.Statement .retrieve :=
  ⟨⟨rfl, by simp [opId, hostIds, issuerOf]⟩, by simp [kindOf, issuerOf]⟩
theorem HostIds.readStatus : HostIds.Statement .readStatus :=
  ⟨⟨rfl, by simp [opId, hostIds, issuerOf]⟩, by simp [kindOf, issuerOf]⟩
theorem HostIds.diagElec : HostIds.Statement .diagElec :=
  ⟨⟨rfl, by simp [opId, hostIds, issuerOf]⟩, by simp [kindOf, issuerOf]⟩
theorem HostIds.diagTiming : HostIds.Statement .diagTiming :=
  ⟨⟨rfl, by simp [opId, hostIds, issuerOf]⟩, by simp [kindOf, issuerOf]⟩
theorem HostIds.diagYield : HostIds.Statement .diagYield :=
  ⟨⟨rfl, by simp [opId, hostIds, issuerOf]⟩, by simp [kindOf, issuerOf]⟩
theorem HostIds.inferGrade (w : Count) : HostIds.Statement (.inferGrade w) :=
  ⟨⟨rfl, by simp [opId, hostIds, issuerOf]⟩, by simp [kindOf, issuerOf]⟩
theorem HostIds.frameStructured (src : Byte) (dst : Byte) (opc : Byte) (data : Payload) (pad : Byte) (chk : Byte) : HostIds.Statement (.frameStructured src dst opc data pad chk) :=
  ⟨⟨rfl, by simp [opId, hostIds, issuerOf]⟩, by simp [kindOf, issuerOf]⟩
theorem HostIds.frameGeneric (len : Byte) (body : List Byte) : HostIds.Statement (.frameGeneric len body) :=
  ⟨⟨rfl, by simp [opId, hostIds, issuerOf]⟩, by simp [kindOf, issuerOf]⟩
theorem HostIds.symSync : HostIds.Statement .symSync :=
  ⟨⟨rfl, by simp [opId, hostIds, issuerOf]⟩, by simp [kindOf, issuerOf]⟩
theorem HostIds.symBitsync : HostIds.Statement .symBitsync :=
  ⟨⟨rfl, by simp [opId, hostIds, issuerOf]⟩, by simp [kindOf, issuerOf]⟩
theorem HostIds.symBit0 : HostIds.Statement .symBit0 :=
  ⟨⟨rfl, by simp [opId, hostIds, issuerOf]⟩, by simp [kindOf, issuerOf]⟩
theorem HostIds.symBit1 : HostIds.Statement .symBit1 :=
  ⟨⟨rfl, by simp [opId, hostIds, issuerOf]⟩, by simp [kindOf, issuerOf]⟩
theorem HostIds.frameOnLine (b : List Byte) : HostIds.Statement (.frameOnLine b) :=
  ⟨⟨rfl, by simp [opId, hostIds, issuerOf]⟩, by simp [kindOf, issuerOf]⟩

end Sys2Proof.Laws
end

