-- ==== Sys2Proof/Laws/Step.lean ====
section
/-! SUPPORT. What a step is when no call is issued in its cycle: the clock cycle, and which agent alone acts in it. -/

namespace Sys2Proof.Machine

/-- A step in which no reset comes and no call is due is a clock cycle of the agents. -/
theorem step_quiet (s : State) (hr : s.inputNow.rst = false) (hc : ∀ c, s.calls.head? = some c → s.cycle < c.due) :
    step s = clockOut s s := by
  have hf : s.fetch = .idle := by
    unfold State.fetch
    split
    · rfl
    · rename_i c r h
      rw [if_pos (hc c (by rw [h]; rfl))]
  simp [step, hr, hf, runFetch]

/-- A call of the block that waits, with no call behind it, leaves the cycle to the agents. -/
theorem step_held (s : State) (c : Call) (hr : s.inputNow.rst = false) (hc : s.calls = [c]) (hd : c.due ≤ s.cycle)
    (hb : c.issuer = .block) (ha : s.admitsCall c = false) : step s = clockOut s s := by
  have hf : s.fetch = .idle := by
    simp [State.fetch, hc, Nat.not_lt.mpr hd, hb, ha, State.hostFetch]
  simp [step, hr, hf, runFetch]

/-- The end of a cycle in which the agents wrote to `t`, which keeps the clock of `s`, is `t` one cycle later. -/
theorem endCycle_eq (s t : State) : endCycle s t = { t with
    linePrev := s.line
    cycle := s.cycle + 1
    inputs := s.inputs.tail
    drvTrace := s.drvLow :: s.drvTrace
    hostLock := false } := rfl

/-- No trigger can come while a probe or a reception runs (10_state.md R31). -/
theorem trig_busy (s : State) (h : s.diagMode = true ∨ s.rxActive = true) : s.trig = false := by
  rcases h with h | h <;> simp [State.trig, State.rxArm, h]

/-- While a probe or a reception runs ARB takes no step (44_arbitration.md R216). -/
theorem arbRuns_busy (s : State) (l : Bool) (h : s.diagMode = true ∨ s.rxActive = true) : s.arbRuns l = false := by
  rcases h with h | h <;> simp [State.arbRuns, State.frozen, h]

/-- Outside an unreachable phase RX never writes DRV_LOW (10_state.md R29). -/
theorem rxCycle_drvLow (s0 s : State) (h : s0.rxActive = true → 1 ≤ s0.rxPhase.toNat ∧ s0.rxPhase.toNat ≤ 5) :
    (rxCycle s0 s).drvLow = s.drvLow := by
  have capture : ∀ t b, (State.endCapture s0 t b).drvLow = t.drvLow := by
    intro t b
    unfold State.endCapture
    split <;> rfl
  unfold rxCycle
  split
  · rename_i ha
    have hp := h ha
    unfold rxStep
    split
    · unfold rxSyncLow
      split
      · rfl
      · split <;> rfl
    · unfold rxSyncHigh
      split <;> split <;> rfl
    · unfold rxBsLow
      split
      · rfl
      · split <;> rfl
    · unfold rxBitLow
      split
      · rfl
      · split <;> rfl
    · unfold rxBitHigh rxBitDone rxByteDone
      split
      · split <;> rfl
      · dsimp only
        generalize (if s0.rxByteidx = 0 then _ else _) = len
        split
        · split
          · rfl
          · exact capture _ _
        · rfl
    · rename_i h1 h2 h3 h4 h5
      rcases (by omega : s0.rxPhase.toNat = 1 ∨ s0.rxPhase.toNat = 2 ∨ s0.rxPhase.toNat = 3 ∨ s0.rxPhase.toNat = 4
        ∨ s0.rxPhase.toNat = 5) with e | e | e | e | e
      · exact absurd e h1
      · exact absurd e h2
      · exact absurd e h3
      · exact absurd e h4
      · exact absurd e h5
  · split <;> rfl

/-- With a probe running, no reception and nothing asked from outside, a step is DIAG's, unless DIAG would store outside
its buffer. -/
theorem step_probe (s : State) (hu : s.undisturbed) (hd : s.diagMode = true) (hx : s.rxActive = false)
    (hf : diagIndexFault s = false) : step s = .next (endCycle s (diagStep s s)) := by
  obtain ⟨hr, hc, hw, hq, hl⟩ := hu
  rw [step_quiet s hr (by simp [hc])]
  have ha : s.arbRuns s.hostLock = false := arbRuns_busy s _ (.inl hd)
  simp [clockOut, agentFault, rxIndexFault, hx, hf, ha, clock, hostCycle_none s s hw hq, rxCycle, trig_busy s (.inl hd),
    arbCycle_still s s ha, diagCycle, hd]

/-- With a reception running, no probe and nothing asked from outside, a step is RX's, unless RX would store outside its
buffer. -/
theorem step_reception (s : State) (hu : s.undisturbed) (hx : s.rxActive = true) (hd : s.diagMode = false)
    (hf : rxIndexFault s = false) : step s = .next (endCycle s (rxStep s s)) := by
  obtain ⟨hr, hc, hw, hq, hl⟩ := hu
  rw [step_quiet s hr (by simp [hc])]
  have ha : s.arbRuns s.hostLock = false := arbRuns_busy s _ (.inr hx)
  have hs : (rxStep s s).hostLock = s.hostLock := by
    have h := rxCycle_only s s
    rw [rxCycle, if_pos hx] at h
    rw [h]
  have hb : s.arbRuns (rxStep s s).hostLock = false := arbRuns_busy s _ (.inr hx)
  simp [clockOut, agentFault, diagIndexFault, hd, hf, ha, clock, hostCycle_none s s hw hq, rxCycle, hx,
    arbCycle_still s _ hb, diagCycle]

/-- With neither a reception, its trigger nor a probe, in a configured block and with nothing asked from outside, a step is
ARB's, unless ARB would do what has no effect. -/
theorem step_arb (s : State) (hu : s.undisturbed) (hx : s.rxActive = false) (ha : s.arbRuns false = true)
    (hf : s.arbFault = none) : step s = .next (endCycle s (arbStep s s)) := by
  obtain ⟨hr, hc, hw, hq, hl⟩ := hu
  rw [step_quiet s hr (by simp [hc])]
  have h : s.trig = false ∧ s.diagMode = false := by
    simp [State.arbRuns, State.frozen] at ha
    exact ⟨ha.2.1.2, ha.2.2⟩
  simp [clockOut, agentFault, rxIndexFault, diagIndexFault, hx, h.1, h.2, hl, ha, hf, clock, hostCycle_none s s hw hq,
    rxCycle, arbCycle, diagCycle]

end Sys2Proof.Machine
end

