-- ==== Sys2Proof/Tests/Slice0.lean ====
section
/-! SUPPORT. Tests: the operand checks, the decoder on words written out from 30_encoding.md, small runs of every
operation with results taken from the rules, and for every statement with hypotheses a state that meets them. -/

namespace Sys2Proof.Tests

open Sys2Proof Sys2Proof.Machine

set_option Elab.async false

/-! ### Operand checks -/

theorem test_wf_serialize_marker : (Instr.serialize (.structured ⟨1, 1, 1, 0, ⟨0, 0, 0, 0, 0, 0⟩, 0, 0⟩)).wellFormed = false := by
  decide
theorem test_wf_serialize_zero_tag : (Instr.serialize (.generic 0 [1, 2])).wellFormed = false := by decide
theorem test_wf_serialize_length : (Instr.serialize (.generic 4 [1, 2])).wellFormed = false := by decide
theorem test_wf_deserialize_empty : (Instr.deserialize []).wellFormed = false := by decide
theorem test_wf_deserialize_long : (Instr.deserialize (List.replicate 256 0)).wellFormed = false := by decide +kernel
/-- A sequence that a two-byte length field cannot carry. -/
theorem wf_too_long {b : List Byte} (w : Wait) (h : 65536 ≤ b.length) :
    (Instr.validate b).wellFormed = false ∧ (Instr.submit b w).wellFormed = false := by
  simp [Instr.wellFormed, h]
theorem test_wf_validate_long : (Instr.validate (List.replicate 65536 0)).wellFormed = false :=
  (wf_too_long .forever (Nat.le_of_eq List.length_replicate.symm)).1
theorem test_wf_submit_long : (Instr.submit (List.replicate 65536 0) .forever).wellFormed = false :=
  (wf_too_long .forever (Nat.le_of_eq List.length_replicate.symm)).2
theorem test_wf_sendFrame_length : (Instr.sendFrame [3, 1]).wellFormed = false := by decide
theorem test_wf_sendFrame_empty : (Instr.sendFrame []).wellFormed = false := by decide
theorem test_wf_frameGeneric : (Instr.frameGeneric 0 []).wellFormed = false := by decide
theorem test_wf_frameOnLine : (Instr.frameOnLine [0, 1, 2]).wellFormed = false := by decide
theorem test_wf_accepts : (Instr.sendFrame [3, 0x20, 0]).wellFormed = true ∧ (Instr.frameGeneric 1 []).wellFormed = true := by
  decide

/-! ### Decoding: each record written out from the id table of R120 and the record layout of entry 5 -/

/-- What a record decodes to. -/
def got (r : List Byte) : Option Instr :=
  match decode r with
  | .ok i => some i
  | .error _ => none

theorem test_decode_sampleBit : got [0x01] = some .sampleBit := by decide
theorem test_decode_sampleByte : got [0x02] = some .sampleByte := by decide
theorem test_decode_driveBit : got [0x03, 0x01] = some (.driveBit true) := by decide
theorem test_decode_decodeHeader : got [0x10, 0xFF] = some (.decodeHeader 0xFF) := by decide
theorem test_decode_serialize : got [0x11, 1, 3, 2, 0, 0x20, 0x00] = some (.serialize (.generic 3 [0x20, 0])) := by decide
theorem test_decode_serialize_structured :
    got [0x11, 0, 0, 1, 2, 3, 4, 5, 6, 7, 8, 9, 10, 11] =
      some (.serialize (.structured ⟨0, 1, 2, 3, ⟨4, 5, 6, 7, 8, 9⟩, 10, 11⟩)) := by decide
theorem test_decode_deserialize : got [0x12, 2, 0, 2, 9] = some (.deserialize [2, 9]) := by decide
theorem test_decode_validate : got [0x13, 0, 0] = some (.validate []) := by decide
theorem test_decode_rxFrame : got [0x20] = some .rxFrame := by decide
theorem test_decode_startFrame : got [0x28] = some .startFrame := by decide
theorem test_decode_sendByte : got [0x29, 0xA5] = some (.sendByte 0xA5) := by decide
theorem test_decode_sendFrame : got [0x2A, 3, 3, 0x20, 0] = some (.sendFrame [3, 0x20, 0]) := by decide
theorem test_decode_arbWaiting : got [0x30] = some .arbWaiting := by decide
theorem test_decode_arbListening : got [0x31] = some .arbListening := by decide
theorem test_decode_arbStarting : got [0x32] = some .arbStarting := by decide
theorem test_decode_arbSending : got [0x33] = some .arbSending := by decide
theorem test_decode_arbReading : got [0x34] = some .arbReading := by decide
theorem test_decode_init : got [0x40, 0x0A, 0x09] = some (.init ⟨0x0A, true, false, 2⟩) := by decide
theorem test_decode_submit : got [0x41, 0, 0x10, 0x27, 0, 0, 1, 0, 1] = some (.submit [1] (.cycles 10000)) := by decide
theorem test_decode_submit_forever : got [0x41, 1, 0, 0, 0, 0, 1, 0, 1] = some (.submit [1] .forever) := by decide
theorem test_decode_retrieve : got [0x42] = some .retrieve := by decide
theorem test_decode_readStatus : got [0x43] = some .readStatus := by decide
theorem test_decode_diagElec : got [0x50] = some .diagElec := by decide
theorem test_decode_diagTiming : got [0x51] = some .diagTiming := by decide
theorem test_decode_diagYield : got [0x52] = some .diagYield := by decide
theorem test_decode_inferGrade : got [0x53, 0x96, 0, 0, 0x80] = some (.inferGrade 0x80000096) := by decide
theorem test_decode_frameStructured :
    got [0x00, 1, 2, 3, 4, 5, 6, 7, 8, 9, 10, 11] = some (.frameStructured 1 2 3 ⟨4, 5, 6, 7, 8, 9⟩ 10 11) := by decide
theorem test_decode_frameGeneric : got [0x80, 3, 0x20, 0] = some (.frameGeneric 3 [0x20, 0]) := by decide
theorem test_decode_symSync : got [0x81] = some .symSync := by decide
theorem test_decode_symBitsync : got [0x82] = some .symBitsync := by decide
theorem test_decode_symBit0 : got [0x83] = some .symBit0 := by decide
theorem test_decode_symBit1 : got [0x84] = some .symBit1 := by decide
theorem test_decode_frameOnLine : got [0x85, 1, 1] = some (.frameOnLine [1]) := by decide
/-- Every id that R120 does not list and the model does not use is rejected by name. -/
theorem test_decode_reserved :
    ∀ id : Fin 256, id.val ∉ [0x00, 0x01, 0x02, 0x03, 0x10, 0x11, 0x12, 0x13, 0x20, 0x28, 0x29, 0x2A, 0x30, 0x31, 0x32,
      0x33, 0x34, 0x40, 0x41, 0x42, 0x43, 0x50, 0x51, 0x52, 0x53, 0x80, 0x81, 0x82, 0x83, 0x84, 0x85] →
      got [BitVec.ofNat 8 id.val] = none := by decide +kernel
theorem test_decode_reserved_operands :
    got [0x03, 2] = none ∧ got [0x40, 1, 0x10] = none ∧ got [0x41, 2] = none ∧ got [0x41, 1, 1] = none
    ∧ got [0x11, 2] = none ∧ got [0x80, 0] = none := by decide

/-! ### Small machines -/

/-- A legal parameter set: the example of 45_host_ops.md (DELTA[0] = 100000, TOL[0] = 25000) and its tenths. -/
def params : Config.Params where
  delta := ⟨100000, 10000, 1000, 100⟩
  tol := ⟨25000, 2500, 250, 25⟩
  syncLowHuCtrl := 10
  syncLowHuDev := 8
  ringBytes := 255
  inqDepth := 2
  outqDepth := 2
  inqWaitCyc := 8
  uInf := 100
  syncMin := ⟨200000, 20000, 2000, 200⟩
  tmoElec := 20
  tmoTiming := 100000
  tmoYield := 100000
  pinOk := true

/-- The line at given levels, released by ENV where it is high. -/
def onLine (runs : List (Bool × Nat)) : List CycleIn :=
  runs.flatMap (fun r => List.replicate r.2 ⟨false, true, if r.1 then .free else .pulls⟩)

/-- A configured device with a profile written by hand and the line to come. -/
def dev (delta tol : Nat) (runs : List (Bool × Nat)) : State :=
  { State.resetWith params with
    cfgValid := true
    modeAddr := 3
    tpDelta := BitVec.ofNat 32 delta
    tpTol := BitVec.ofNat 32 tol
    tpWmin := BitVec.ofNat 32 (delta - tol)
    tpWmax := BitVec.ofNat 32 (delta + tol)
    inputs := onLine runs }

/-- The next state, if there is one. -/
def nextOf (o : Host.Outcome State Fault Refusal) : Option State :=
  match o with
  | .next t => some t
  | .fault _ => none
  | .refused _ => none

/-- What an operation answers. -/
def answers (i : Instr) (s : State) : Option (List Reply) := (nextOf (exec i s)).map State.replies

/-- The events of an operation and its cycles. -/
def raises (i : Instr) (s : State) : Option (List Raised) := (nextOf (exec i s)).map State.events

theorem test_params_legal : params.legalFor 0 = true ∧ params.legalFor 3 = true := by decide
theorem test_build_refuses : State.build { params with uInf := 3 } 0 = none := by decide
/-- R7 asks the SYNC lengths of the active grade only: with DELTA[3] = 15 no length is above 150 and at most 150. -/
theorem test_build_asks_the_active_grade :
    let p := { params with delta := ⟨15000, 1500, 150, 15⟩, tol := ⟨7000, 700, 70, 7⟩, syncMin := ⟨1, 1, 1, 1⟩ }
    p.legalFor 0 = true ∧ p.legalFor 2 = true ∧ p.legalFor 3 = false := by decide
theorem test_reset_storage : (State.resetWith params).storageOk := by decide

/-! ### The operations, results from the rules -/

/-- R142: a high phase of exactly WMAX is 0. -/
theorem test_sampleBit_zero : answers .sampleBit (dev 4 1 [(false, 2), (true, 5), (false, 1)]) =
    some [⟨7, 0x01, .sampledBit (.bit false) 5 7⟩] := by decide +kernel
/-- R144: high for more than 25 * DELTA. -/
theorem test_sampleBit_high : answers .sampleBit (dev 1 0 []) =
    some [⟨25, 0x01, .sampledBit (.fault .highStuck) 25 25⟩] := by decide +kernel
/-- R146: 0xA5 is 1 0 1 0 0 1 0 1, most significant bit first. -/
theorem test_sampleByte : answers .sampleByte (dev 1 0 ([2, 1, 2, 1, 1, 2, 1, 2].flatMap (fun h => [(true, h), (false, 1)]))) =
    some [⟨19, 0x02, .sampledByte (.byte 0xA5) 19⟩] := by decide +kernel
/-- R145: the line stays low. -/
theorem test_sampleByte_low : answers .sampleByte (dev 1 0 [(true, 1), (false, 11)]) =
    some [⟨11, 0x02, .sampledByte (.fault .lowStuck) 11⟩] := by decide +kernel
/-- R147: 2 * DELTA released, 150 low. -/
theorem test_driveBit : (nextOf (exec (.driveBit true) (dev 1 0 []))).map (fun t => (t.drvTrace, t.replies)) =
    some (List.replicate 150 true ++ [false, false], [⟨152, 0x03, .driven false 152⟩]) := by decide +kernel
/-- R148: check 1 in the last cycle of the high phase. -/
theorem test_driveBit_collision : answers (.driveBit true) (dev 1 0 [(true, 1), (false, 1)]) =
    some [⟨2, 0x03, .driven true 2⟩] := by decide +kernel
/-- R161: the examples. -/
theorem test_decodeHeader : answers (.decodeHeader 0x00) (dev 1 0 []) = some [⟨0, 0x10, .frameLen 12⟩]
    ∧ answers (.decodeHeader 0x05) (dev 1 0 []) = some [⟨0, 0x10, .frameLen 5⟩] := by decide
theorem test_serialize : answers (.serialize (.generic 3 [0x20, 0])) (dev 1 0 []) =
    some [⟨0, 0x11, .serialized [3, 0x20, 0]⟩] := by decide
theorem test_deserialize : answers (.deserialize [1]) (dev 1 0 []) = some [⟨0, 0x12, .deserialized (some (.generic 1 []))⟩]
    ∧ answers (.deserialize [5, 1]) (dev 1 0 []) = some [⟨0, 0x12, .deserialized none⟩] := by decide
/-- R167: a terminator from index 2 on; no payload byte, so V_GEN_UNTERM. -/
theorem test_validate : answers (.validate [3, 0x20, 0]) (dev 1 0 []) = some [⟨0, 0x13, .violations .ok (some 0)⟩]
    ∧ answers (.validate [1]) (dev 1 0 []) = some [⟨0, 0x13, .violations .ok (some 0x0800)⟩] := by decide

/-- A frame of one byte 0x01 as another device with DELTA = 1 sends it, guards of three cycles. -/
def frameOfOne : List (Bool × Nat) :=
  [(false, 3), (true, 8), (false, 8)] ++ [1, 1, 1, 1, 1, 1, 1, 2].flatMap (fun h => [(true, h), (false, 3)])

/-- R181, R189, R191. -/
theorem test_rxFrame : (nextOf (exec .rxFrame (dev 1 0 frameOfOne))).map (fun t => (t.ring, t.notify, t.events)) =
    some ([[1]], true, [⟨49, .rxPushed [1]⟩]) := by decide +kernel
/-- R183: the high phase after SYNC is shorter than 6 * DELTA. -/
theorem test_rxFrame_short : raises .rxFrame (dev 1 0 [(false, 3), (true, 5), (false, 1)]) =
    some [⟨8, .rxShortHigh⟩] := by decide +kernel
/-- R200, R202: SYNC low 8 * 2 / 2 = 8 for a device, then 16 * DELTA. -/
theorem test_startFrame : (nextOf (exec .startFrame (dev 2 0 []))).map (fun t => (t.drvTrace.reverse, t.replies)) =
    some (List.replicate 8 true ++ List.replicate 16 false ++ List.replicate 16 true, [⟨40, 0x28, .started 40⟩]) := by
  decide +kernel
/-- R203: bit 7 of 0x80 is 1, so check 1 is at cycle 1. -/
theorem test_sendByte : answers (.sendByte 0x80) (dev 1 0 [(true, 1), (false, 1)]) =
    some [⟨2, 0x29, .driven true 2⟩] := by decide +kernel
/-- R205: check 2 of the first cell of value 0, DELTA = 1, is at cycle 151. -/
theorem test_sendFrame : raises (.sendFrame [1]) (dev 1 0 [(true, 151), (false, 1)]) =
    some [⟨151, .collisionGuard 0 7⟩] := by decide +kernel
/-- R219: inbound first. -/
theorem test_arbWaiting_reading : (nextOf (exec .arbWaiting { dev 1 0 [] with ring := [[1]], txHeld := true })).map State.arbState =
    some arbReadingCode := by decide +kernel
/-- R220. -/
theorem test_arbWaiting_hold : (nextOf (exec .arbWaiting { dev 1 0 [] with outq := [[2, 7], [1]] })).map
    (fun t => (t.arbState, t.outq, t.byte .txFrame 0, t.byte .txFrame 1, t.txLen, t.txHeld)) =
    some (arbListeningCode, [[1]], 2, 7, 2, true) := by decide +kernel
/-- R223: the line is low. The edge is older than this cycle. -/
theorem test_arbListening_busy :
    (nextOf (exec .arbListening { dev 4 1 [(false, 1)] with arbState := 1, linePrev := false })).map
      (fun t => (t.arbState, t.events)) = some (arbWaitingCode, [⟨0, .listenBusy⟩]) := by decide +kernel
/-- R224: (3 + 6) * 4 / 4 = 9. -/
theorem test_arbListening_backoff :
    (nextOf (exec .arbListening { dev 4 1 [] with arbState := 1, notify := true })).map
      (fun t => (t.arbState, t.arbSub, t.arbCnt, t.notify)) = some (arbListeningCode, 1, 9, false) := by decide +kernel
/-- R228: SYNC low is over, bit-sync high of 8 * 4 cycles follows. -/
theorem test_arbStarting_sync :
    (nextOf (exec .arbStarting { dev 4 1 [] with arbState := 2, arbCnt := 1, drvLow := true })).map
      (fun t => (t.arbSub, t.arbCnt, t.drvLow)) = some (1, 32, false) := by decide +kernel
/-- R316 row 10: with DELTA = 4 and SYNC low of 16 cycles the count 16 is the first cycle's, and 15 is not. -/
theorem test_arbStarting_event :
    [16, 15].map (fun n =>
      (nextOf (exec .arbStarting { dev 4 1 [] with cycle := 24, arbState := 2, arbCnt := n, drvLow := true })).map
        (fun t => (t.arbCnt, t.events))) = [some (15, [⟨24, .txStart 24⟩]), some (14, [])] := by decide +kernel
/-- R227, R236: the first cell, of bit 7 = 1, begins. -/
theorem test_arbStarting_end :
    (nextOf (exec .arbStarting { dev 4 1 [] with
        arbState := 2, arbSub := 2, arbCnt := 1, drvLow := true, txFrame := [(0, 0x80)], txLen := 128 })).map
      (fun t => (t.arbState, t.arbCnt, t.txBitidx, t.drvLow)) =
      some (arbSendingCode, 8, 7, false) := by decide +kernel
/-- R231. -/
theorem test_arbSending_done :
    (nextOf (exec .arbSending { dev 4 1 [] with
        arbState := 3, arbSub := 1, arbCnt := 0, txHeld := true, notify := true, txLen := 1 })).map
      (fun t => (t.arbState, t.txHeld, t.notify, t.events)) = some (arbWaitingCode, false, false, [⟨0, .txDone⟩]) := by
  decide +kernel
/-- R232: check 2 of byte 0, bit 7 fails in the first cycle of the next cell. -/
theorem test_arbSending_guard :
    (nextOf (exec .arbSending { dev 4 1 [(false, 1)] with
        arbState := 3, arbCnt := 4, txHeld := true, txLen := 1, txBitidx := 6, linePrev := false })).map
      (fun t => (t.arbState, t.txHeld, t.events)) = some (arbListeningCode, true, [⟨0, .collisionGuard 0 7⟩]) := by
  decide +kernel
/-- R234. -/
theorem test_arbReading_pop :
    (nextOf (exec .arbReading { dev 1 0 [] with arbState := 4, ring := [[2, 9], [1]] })).map
      (fun t => (t.ring, t.byte .rdFrame 0, t.byte .rdFrame 1, t.rdLen, t.arbCnt, t.arbSub)) = some ([[1]], 2, 9, 2, 8, 1) := by
  decide +kernel
/-- R237, U7: an undefined ARB_SUB with nothing to pop is flagged and stays, with the line released. -/
theorem test_arbReading_undefined :
    (nextOf (exec .arbReading { dev 1 0 [] with arbState := 4, arbSub := 2, drvLow := true, linePrev := false })).map
      (fun t => (t.arbState, t.arbSub, t.statInvariant, t.drvLow, t.events)) =
      some (arbReadingCode, 2, true, false, [⟨0, .invariant⟩]) := by decide +kernel
/-- R237: the line is released, although the last high cycle of sub-phase 0 would pull it low. -/
theorem test_arbSending_undefined :
    (nextOf (exec .arbSending { dev 1 0 [] with arbState := 3, arbSub := 3, arbCnt := 1, txBitidx := 7, txLen := 1 })).map
      (fun t => (t.arbSub, t.statInvariant, t.drvLow)) = some (1, true, false) := by decide +kernel
/-- R235: the last attempt fails. -/
theorem test_arbReading_full :
    (nextOf (exec .arbReading { dev 1 0 [] with arbState := 4, arbSub := 1, arbCnt := 0, inq := [[1], [1]] })).map
      (fun t => (t.arbState, t.inq, t.events)) = some (arbWaitingCode, [[1], [1]], [⟨0, .inqFull⟩]) := by decide +kernel
/-- 45_host_ops.md, the example after R253. -/
theorem test_init :
    (nextOf (exec (.init ⟨0x0A, true, false, 0⟩) (State.resetWith params))).map
      (fun t => (t.cfgValid, t.tpDelta, t.tpWmin, t.tpWmax, t.replies)) =
      some (true, 100000, 75000, 125000, [⟨0, 0x40, .status .ok⟩]) := by decide +kernel
/-- R252: address zero is tested before the pin. -/
theorem test_init_address : answers (.init ⟨0, true, false, 0⟩)
    { State.resetWith params with inputs := [⟨false, false, .free⟩] } = some [⟨0, 0x40, .status .eAddrZero⟩] := by
  decide +kernel
/-- R255. -/
theorem test_submit : (nextOf (exec (.submit [1] (.cycles 0)) { dev 1 0 [] with outq := [[2, 2]] })).map
    (fun t => (t.outq, t.replies)) = some ([[2, 2], [1]], [⟨0, 0x41, .status .ok⟩]) := by decide +kernel
/-- R255: two frames are all that OUTQ holds. -/
theorem test_submit_full : answers (.submit [1] (.cycles 0)) { dev 1 0 [] with outq := [[1], [1]] } =
    some [⟨0, 0x41, .status .eQueueFull⟩] := by decide +kernel
/-- R258. -/
theorem test_retrieve : (nextOf (exec .retrieve { dev 1 0 [] with inq := [[1], [2, 2]] })).map (fun t => (t.inq, t.replies)) =
    some ([[2, 2]], [⟨0, 0x42, .retrieved .ok (some [1])⟩]) := by decide +kernel
theorem test_retrieve_none : answers .retrieve (dev 1 0 []) = some [⟨0, 0x42, .retrieved .none none⟩] := by decide +kernel
/-- R262, R251: never refused. -/
theorem test_readStatus : (answers .readStatus (State.resetWith params)).isSome = true := by decide +kernel
/-- R270, R271. -/
theorem test_diagElec : (nextOf (exec .diagElec (dev 1 0 []))).map (fun t => (t.diagMode, t.hostLock, t.drvLow)) =
    some (true, true, true) := by decide +kernel
theorem test_diagElec_busy : answers .diagElec { dev 1 0 [] with arbState := 1 } = some [⟨0, 0x50, .status .eBusy⟩] := by
  decide +kernel
/-- R272, corner case (a): on the ideal quiet line both delays are 0 and the probe ends at d0 + 1. -/
theorem test_diagElec_ideal :
    (nextOf (exec .diagElec (dev 1 0 []))).bind (fun t => (nextOf (clockOut (dev 1 0 []) t)).bind (fun u =>
      (stepN 2 u).map (fun v => (v.deFall, v.deRise, v.deStatus, v.replies)))) =
      some (0, 0, false, [⟨2, 0x50, .status .ok⟩]) := by decide +kernel
theorem test_diagTiming : (nextOf (exec .diagTiming { dev 1 0 [] with dsBit0 := 7 })).map (fun t => (t.diagMode, t.dsBit0)) =
    some (true, 0) := by decide +kernel
theorem test_diagYield : answers .diagYield (State.resetWith params) = some [⟨0, 0x52, .status .eNotInit⟩] := by decide +kernel
/-- R286, with U_INF = 100. -/
theorem test_inferGrade :
    [199, 200, 300, 600, 2299, 2300].map (fun w => answers (.inferGrade (BitVec.ofNat 32 w)) (dev 1 0 [])) =
      [3, 2, 1, 0, 0, 7].map (fun g => some [⟨0, 0x53, .grade g⟩]) := by decide +kernel
theorem test_frameStructured :
    answers (.frameStructured 1 2 3 ⟨4, 5, 6, 7, 8, 9⟩ 0 11) (dev 1 0 []) =
      some [⟨0, 0x00, .frameBytes [0, 1, 2, 3, 4, 5, 6, 7, 8, 9, 0, 11] 12⟩] := by decide +kernel
theorem test_frameGeneric : answers (.frameGeneric 3 [0x20, 0]) (dev 1 0 []) =
    some [⟨0, 0x80, .frameBytes [3, 0x20, 0] 3⟩] := by decide +kernel
/-- R102: SYNC low of a controller, 10 * 2 / 2 cycles. -/
theorem test_symSync : (nextOf (exec .symSync { dev 2 0 [] with modeCtrl := true })).map State.drvTrace =
    some (List.replicate 10 true) := by decide +kernel
/-- R103. -/
theorem test_symBitsync : (nextOf (exec .symBitsync (dev 2 0 []))).map (fun t => t.drvTrace.reverse) =
    some (List.replicate 16 false ++ List.replicate 16 true) := by decide +kernel
/-- R104. -/
theorem test_symBit0 : (nextOf (exec .symBit0 (dev 2 0 []))).map (fun t => t.drvTrace.reverse) =
    some ([false, false] ++ List.replicate 150 true) := by decide +kernel
theorem test_symBit1 : (nextOf (exec .symBit1 (dev 2 0 []))).map (fun t => t.drvTrace.reverse) =
    some ([false, false, false, false] ++ List.replicate 150 true) := by decide +kernel
/-- R105: SYNC low 4, 16 * DELTA, seven cells of 151 cycles and one of 152. -/
theorem test_frameOnLine : answers (.frameOnLine [1]) (dev 1 0 []) = some [⟨1229, 0x85, .onLine 1229⟩] := by decide +kernel

/-! ### The step runs the word that is placed -/

theorem test_step_host : (nextOf (step ((State.resetWith params).withFetchWord 24 0x0D0A40))).map
    (fun t => (t.cfgValid, t.modeGrade, t.tpDelta, t.cycle)) = some (true, 3, 100, 1) := by decide +kernel
theorem test_step_block : (nextOf (step ((State.resetWith params).withFetchWord 16 0x0510))).map State.replies =
    some [⟨0, 0x10, .frameLen 5⟩] := by decide +kernel
theorem test_step_badOp : (nextOf (step ((State.resetWith params).withFetchWord 8 0x44))).map State.replies =
    some [⟨0, 0x44, .status .eBadOp⟩] := by decide +kernel
/-- R351: a DRIVE_BIT of the block waits while ARB backs off, which loses no cycle, and a READ_STATUS behind it passes. -/
theorem test_step_held : (nextOf (step { dev 4 1 [] with
      arbState := 1, arbSub := 1, arbCnt := 9, calls := [⟨0, .block, [0x03, 0]⟩, ⟨0, .host, [0x43]⟩] })).map
    (fun t => (t.arbCnt, t.cycle, t.drvLow, t.calls, t.replies.map Reply.op)) =
    some (8, 1, false, [⟨0, .block, [0x03, 0]⟩], [0x43]) := by decide +kernel
/-- R215, R351: the operation of another state of ARB writes nothing, and Starting loses no cycle. -/
theorem test_step_arb_other : (nextOf (step { dev 4 1 [] with
      arbState := 2, arbCnt := 9, drvLow := true, calls := [⟨0, .block, [0x33]⟩] })).map
    (fun t => (t.arbState, t.arbCnt, t.calls)) = some (arbStartingCode, 8, []) := by decide +kernel
theorem test_step_reset : (nextOf (step { dev 1 0 [] with inputs := [⟨true, true, .free⟩], drvLow := true })).map
    (fun t => (t.cfgValid, t.drvLow, t.cycle)) = some (false, false, 1) := by decide +kernel

/-! ### States that meet the hypotheses of the statements -/

/-- An input list that is used up leaves the line to this block. -/
theorem releasedAt_past {s : State} {t : Nat} (h : s.inputs.length ≤ t - s.cycle) : s.releasedAt t = true := by
  simp [State.releasedAt, State.inputAt, List.getElem?_eq_none h, State.idleIn, LineEnv.level]

/-- With no input listed nobody else holds the line. -/
theorem releasedAt_quiet (delta tol : Nat) (t : Nat) : (dev delta tol []).releasedAt t = true :=
  releasedAt_past (Nat.zero_le _)

/-- Nothing was driven after the end of an operation. -/
theorem drivenAt_past {s t : State} {k : Nat} (h : t.cycle - s.cycle ≤ k) : drivenAt s t k = none := by
  unfold drivenAt
  apply List.getElem?_eq_none
  simp only [List.length_reverse, List.length_take]
  omega

/-- A trace that reads as the inputs of a list of runs has these runs. -/
theorem follows_of_inputs (tr : Nat → Bool) (q : List (Bool × Nat)) :
    ∀ t, (∀ k c, (onLine q)[k]? = some c → tr (t + k) = c.line.level false) → follows tr t q := by
  induction q with
  | nil => exact fun _ _ => trivial
  | cons r q ih =>
    intro t h
    have e : onLine (r :: q) = List.replicate r.2 ⟨false, true, if r.1 then .free else .pulls⟩ ++ onLine q := rfl
    refine ⟨fun k hk => ?_, ih _ fun k c hc => ?_⟩
    · rw [h k _ (by rw [e, List.getElem?_append_left (by simpa using hk), List.getElem?_replicate, if_pos hk])]
      cases r.1 <;> rfl
    · rw [Nat.add_assoc]
      exact h _ c (by rw [e, List.getElem?_append_right (by simp)]; simpa using hc)

/-- The line of a small machine has the runs it was built from. -/
theorem dev_follows (delta tol : Nat) (q : List (Bool × Nat)) : follows (dev delta tol q).lineAt 0 q :=
  follows_of_inputs _ q 0 fun k c hc => by
    have h : (dev delta tol q).inputs[k]? = some c := hc
    simp only [State.lineAt, State.inputAt, Nat.zero_add]
    rw [show k - (dev delta tol q).cycle = k from rfl, h]
    rfl

/-- A line listed as one sender's waveform carries it. -/
theorem carries_inputs (s : State) (w : List Bool) (hd : s.drvLow = false)
    (hi : s.inputs = w.map (fun d => ⟨false, true, if d then .pulls else .free⟩)) : carries s.lineAt s.cycle w := by
  intro k d hk
  have h : s.inputs[k]? = some ⟨false, true, if d then .pulls else .free⟩ := by rw [hi]; simp [hk]
  simp only [State.lineAt, State.inputAt, Nat.add_sub_cancel_left, h, Option.getD_some, hd]
  cases d <;> rfl

/-- The reset state is one of the invariant's. -/
theorem reset_safe : (State.resetWith params).safe :=
  ⟨by decide, by decide, by decide, ⟨by decide, by decide, by decide, fun h => absurd h (by decide)⟩,
    ⟨by decide, by decide, by decide, fun _ h => nomatch h⟩, by decide⟩

theorem witness_DecodeInvertsEncode :
    (Instr.submit [1] .forever).wellFormed = true ∧ (Instr.serialize (.generic 1 [])).wellFormed = true
    ∧ (Instr.deserialize [0]).wellFormed = true ∧ (Instr.frameOnLine [2, 0]).wellFormed = true := by decide

/-- A state with one record due. -/
def due (issuer : Issuer) (r : List Byte) : State := { dev 1 0 [] with calls := [⟨0, issuer, r⟩] }

theorem witness_StepRunsTheDecodedOperation :
    (due .block [0x01]).inputNow.rst = false ∧ decode [0x01] = .ok .sampleBit ∧ kindOf .sampleBit = .run
    ∧ decode [0x31] = .ok .arbListening ∧ kindOf .arbListening = .arb
    ∧ decode [0x43] = .ok .readStatus ∧ kindOf .readStatus = .call ∧ issuerOf .readStatus = .host
    ∧ (due .host [0x43]).calls = [⟨0, .host, [0x43]⟩] ∧ 0 ≤ (due .host [0x43]).cycle
    ∧ (due .block [0x01]).admits .sampleBit = true
    ∧ { due .block [0x01] with arbState := 2 }.admits .sampleBit = false
    ∧ arbStateOf .arbListening = some { due .block [0x31] with arbState := 1 }.arbState
    ∧ arbStateOf .arbListening ≠ some (due .block [0x31]).arbState :=
  ⟨by decide, rfl, by decide, rfl, by decide, rfl, by decide, by decide, rfl, by decide, by decide, by decide, by decide,
    by decide⟩
theorem witness_UnlistedAndInternalIdsAreRefused :
    (due .host [0x44, 7]).inputNow.rst = false ∧ (due .host [0x44, 7]).calls = [⟨0, .host, [0x44, 7]⟩]
    ∧ (0x44 : Byte) ∉ [0x13, 0x40, 0x41, 0x42, 0x43, 0x50, 0x51, 0x52]
    ∧ (0x01 : Byte) ∉ [0x13, 0x40, 0x41, 0x42, 0x43, 0x50, 0x51, 0x52] := by decide
theorem witness_StepKeepsTheInvariant : (State.resetWith params).safe ∧ ∃ t, step (State.resetWith params) = .next t :=
  ⟨reset_safe, _, rfl⟩
theorem witness_SafeStatesNeverStopOrFlag :
    (State.resetWith params).safe ∧ { State.resetWith params with statInvariant := true }.safe
    ∧ ∃ t, step { State.resetWith params with statInvariant := true } = .next t ∧ t.statInvariant = true :=
  ⟨reset_safe, reset_safe, _, rfl, rfl⟩
theorem witness_ResetWinsOverEverything :
    { dev 1 0 [] with inputs := [⟨true, true, .pulls⟩] }.inputNow.rst = true
    ∧ (∀ c ∈ (dev 1 0 [(false, 2)]).inputs, c.rst = false) ∧ (dev 1 0 [(false, 2)]).cfgValid = true
    ∧ ∃ t, step (dev 1 0 [(false, 2)]) = .next t := ⟨rfl, by decide, rfl, _, rfl⟩
theorem witness_LinePrevFollowsTheLine :
    (∀ c ∈ (dev 1 0 [(false, 2)]).inputs, c.rst = false)
    ∧ ∃ t, step (dev 1 0 [(false, 2)]) = .next t ∧ (dev 1 0 [(false, 2)]).cycle < t.cycle :=
  ⟨by decide, _, rfl, by decide⟩

theorem witness_SampleBitClassifiesByWidth :
    10 ≤ 10 * (dev 1 0 []).tpDelta.toNat ∧ 25 ≤ 25 * (dev 1 0 []).tpDelta.toNat
    ∧ follows (dev 1 0 [(false, 10), (true, 25), (false, 1)]).lineAt 0 [(false, 10), (true, 25), (false, 1)] :=
  ⟨by decide, by decide, dev_follows ..⟩
/-- A line low one cycle too long, one high one cycle too long after the longest low phase, and one that falls in time. -/
theorem witness_SampleBitFaultsExactlyWhenStuck :
    let ends := fun runs => (nextOf (exec .sampleBit (dev 1 0 runs))).map State.replies
    ends [(false, 11)] = some [⟨10, 1, .sampledBit (.fault .lowStuck) 0 10⟩]
    ∧ (∀ k, k ≤ 10 → (dev 1 0 [(false, 11)]).lineAt (0 + k) = false)
    ∧ ends [(false, 10), (true, 26), (false, 1)] = some [⟨35, 1, .sampledBit (.fault .highStuck) 25 35⟩]
    ∧ (∀ k, k < 10 → (dev 1 0 [(false, 10), (true, 26), (false, 1)]).lineAt (0 + k) = false)
    ∧ (∀ k, k ≤ 25 → (dev 1 0 [(false, 10), (true, 26), (false, 1)]).lineAt (0 + 10 + k) = true)
    ∧ ends [(false, 10), (true, 25), (false, 1)] = some [⟨35, 1, .sampledBit (.bit true) 25 35⟩] := by decide +kernel

/-- Eight cells with the first low phase empty, the longest low and high phases and the shortest ones. -/
def eightCells : List (Nat × Nat) := [(0, 1), (10, 25), (1, 1), (1, 2), (10, 1), (1, 25), (3, 2), (1, 1)]

/-- The runs of cells, each a low and a high width. -/
def lowHigh (cs : List (Nat × Nat)) : List (Bool × Nat) := cs.flatMap (fun c => [(false, c.1), (true, c.2)])

/-- Eight whole cells, a low phase of ten cycles that ends in a stuck high one after seven cells, and a stuck low phase
after seven cells and after none. -/
theorem witness_SampleByteAssemblesEightBits :
    let on := fun (runs : List (Bool × Nat)) => follows (dev 1 0 runs).lineAt 0 runs
    eightCells.length = 8 ∧ (eightCells.take 7).length < 8
    ∧ (∀ c ∈ eightCells, c.1 ≤ 10 * (dev 1 0 []).tpDelta.toNat ∧ 1 ≤ c.2 ∧ c.2 ≤ 25 * (dev 1 0 []).tpDelta.toNat)
    ∧ (∀ c ∈ eightCells.tail, 1 ≤ c.1)
    ∧ on (lowHigh eightCells ++ [(false, 1)])
    ∧ on (lowHigh (eightCells.take 7) ++ [(false, 10 * 1 + 1)]) ∧ on (lowHigh [] ++ [(false, 10 * 1 + 1)])
    ∧ on (lowHigh (eightCells.take 7) ++ [(false, 10), (true, 25 * 1 + 1)])
    ∧ on (lowHigh [] ++ [(false, 0), (true, 25 * 1 + 1)]) := by
  exact ⟨by decide, by decide, by decide, by decide, dev_follows .., dev_follows .., dev_follows .., dev_follows ..,
    dev_follows ..⟩
theorem witness_SampleByteAssemblesEightBits_fault : ∃ u, exec .sampleBit (dev 1 0 []) = .next u
    ∧ u.replies = ⟨25, 0x01, .sampledBit (.fault .highStuck) 25 25⟩ :: (dev 1 0 []).replies :=
  ⟨_, rfl, by decide +kernel⟩
theorem witness_DriveBitMakesOneCell :
    (dev 1 0 []).releasedAt (0 + 2 - 1) = true ∧ (dev 1 0 [(true, 1), (false, 1)]).releasedAt (0 + 2 - 1) = false := by
  decide +kernel

/-- The receiver of the dominant bit's cell, DELTA = 1: low in cycles 1 to 150. -/
def loser : State := dev 1 0 [(true, 1), (false, 150)]

theorem witness_DominantBitWins : ∃ tP tQ,
    exec (.driveBit false) (dev 1 0 []) = .next tP ∧ exec (.driveBit true) loser = .next tQ
    ∧ (∀ k, (dev 1 0 []).releasedAt (0 + k) = !(drivenAt loser tQ k == some true))
    ∧ (∀ k, loser.releasedAt (0 + k) = !(drivenAt (dev 1 0 []) tP k == some true)) := by
  refine ⟨_, _, rfl, rfl, fun k => ?_, fun k => ?_⟩
  · by_cases h : k < 2
    · revert k; decide +kernel
    · rw [releasedAt_quiet, drivenAt_past]
      · rfl
      · refine Nat.le_trans (Nat.le_of_eq (m := 2) ?_) (Nat.le_of_not_lt h); decide +kernel
  · by_cases h : k < 151
    · revert k; decide +kernel
    · rw [releasedAt_past, drivenAt_past]
      · rfl
      · refine Nat.le_trans (Nat.le_of_eq (m := 151) ?_) (Nat.le_of_not_lt h); decide +kernel
      · refine Nat.le_trans (Nat.le_of_eq (m := 151) ?_) (show 151 ≤ 0 + k - 0 by omega); decide +kernel

theorem witness_FramesRoundTrip :
    (Frame.structured ⟨0, 1, 2, 3, ⟨4, 5, 6, 7, 8, 9⟩, 10, 11⟩).wellFormed = true ∧ (Frame.generic 1 []).wellFormed = true
    ∧ isFrameBytes [1] = true ∧ isFrameBytes [0, 1, 2, 3, 4, 5, 6, 7, 8, 9, 10, 11] = true := by decide
theorem witness_SerializeCopiesDeserializeChecks :
    (1 : Byte) ≠ 0 ∧ ([] : List Byte).length + 1 = (1 : Byte).toNat
    ∧ ([7] : List Byte).length + 1 ≠ (if (0 : Byte).toNat = 0 then 12 else (0 : Byte).toNat) := by decide
theorem witness_ValidateGenericAndWrongLengths :
    (isFrameBytes [3, 0x20, 0] = true ∧ ([3, 0x20, 0] : List Byte).headD 0 ≠ 0
      ∧ ∃ i, 2 ≤ i ∧ ([3, 0x20, 0] : List Byte)[i]? = some 0)
    ∧ (isFrameBytes [2, 0] = true ∧ ([2, 0] : List Byte).headD 0 ≠ 0 ∧ ∀ i, 2 ≤ i → ([2, 0] : List Byte)[i]? ≠ some 0)
    ∧ isFrameBytes [] = false := by
  refine ⟨⟨by decide, by decide, 2, by decide, by decide⟩, ⟨by decide, by decide, fun i hi => ?_⟩, by decide⟩
  rw [List.getElem?_eq_none (by simpa using hi)]
  exact fun h => nomatch h
theorem witness_FormatRowsGiveTheirBytes : ([] : List Byte).length + 1 = (1 : Byte).toNat := by decide

theorem witness_FallingEdgeIsTaken :
    ((dev 1 0 [(false, 1)]).undisturbed ∧ (dev 1 0 [(false, 1)]).trig = true)
    ∧ ((dev 1 0 []).undisturbed ∧ (dev 1 0 []).trig = false ∧ (dev 1 0 []).rxActive = false
      ∧ ∃ t, step (dev 1 0 []) = .next t) := ⟨by decide, by decide, by decide, by decide, _, rfl⟩
theorem witness_EveryReceptionEnds : (dev 1 0 frameOfOne).trig = true := by decide

theorem witness_BadFramingAbortsTheReception :
    let on := fun (runs : List (Bool × Nat)) => (dev 1 0 runs).trig = true ∧ follows (dev 1 0 runs).lineAt 0 runs
    let cells := [(25, 1), (1, 10), (1, 1), (1, 1), (2, 1), (1, 1), (1, 1)]
    let zeros := List.replicate 7 (1, 1)
    on [(false, 11)] ∧ on [(false, 10), (true, 5), (false, 1)] ∧ on [(false, 10), (true, 26)]
    ∧ on [(false, 10), (true, 6), (false, 11)]
    ∧ (∀ c ∈ cells ++ zeros, 1 ≤ c.1 ∧ c.1 ≤ 25 * (dev 1 0 []).tpDelta.toNat ∧ 1 ≤ c.2
        ∧ c.2 ≤ 10 * (dev 1 0 []).tpDelta.toNat)
    ∧ frameGoesOn (cellBits (dev 1 0 []).timing []) ∧ frameGoesOn (cellBits (dev 1 0 []).timing cells)
    ∧ frameGoesOn (cellBits (dev 1 0 []).timing (zeros ++ [(1, 1)]))
    ∧ on ([(false, 1), (true, 25), (false, 10)] ++ cellRuns [] ++ [(true, 26)])
    ∧ on ([(false, 10), (true, 6), (false, 1)] ++ cellRuns cells ++ [(true, 26)])
    ∧ on ([(false, 10), (true, 6), (false, 1)] ++ cellRuns zeros ++ [(true, 1), (false, 11)]) := by
  refine ⟨?_, ?_, ?_, ?_, by decide, by unfold frameGoesOn; decide, by unfold frameGoesOn; decide,
    by unfold frameGoesOn; decide, ?_, ?_, ?_⟩ <;>
    exact ⟨by decide +kernel, dev_follows ..⟩

/-- A line on which a device with DELTA = 15 sends the one-byte frame with a SYNC low phase of 10 * DELTA. -/
def wire : State :=
  { dev 15 7 [] with
    inputs := (frameWave ⟨15, 7, 8, 22⟩ 150 [1]).map (fun d => ⟨false, true, if d then .pulls else .free⟩) }

theorem witness_FramesRoundTripOnTheWire :
    wire.trig = true ∧ wire.timing.legal ∧ isFrameBytes [1] = true ∧ 150 ≤ 10 * wire.tpDelta.toNat
    ∧ carries wire.lineAt wire.cycle (frameWave wire.timing 150 [1])
    ∧ ringUsed wire.ring + ([1] : List Byte).length ≤ wire.params.ringBytes
    ∧ { wire with ring := [List.replicate 255 0] }.params.ringBytes
        < ringUsed { wire with ring := [List.replicate 255 0] }.ring + ([1] : List Byte).length :=
  ⟨by decide +kernel, by decide, by decide, by decide, carries_inputs wire _ rfl rfl, by decide +kernel,
    by decide +kernel⟩
theorem witness_ReceiverStepsMakeRxFrame :
    (dev 1 0 frameOfOne).undisturbed ∧ (∀ c ∈ (dev 1 0 frameOfOne).inputs, c.rst = false)
    ∧ (dev 1 0 frameOfOne).trig = true ∧ (dev 1 0 frameOfOne).rxBuf.wf = true
    ∧ 1 ≤ (dev 1 0 frameOfOne).tpDelta.toNat ∧ 25 * (dev 1 0 frameOfOne).tpDelta.toNat < 2 ^ 32 := by decide +kernel

/-- Every check of every cell of 0x80 reads high although another device pulls low in cycle 0, before check 1 of the first
cell, and in cycle 150, before its check 2. -/
theorem witness_SendByteDrivesUpToACollision :
    let s := dev 1 0 [(false, 1), (true, 149), (false, 1)]
    (s.releasedAt 0 = false ∧ s.releasedAt 150 = false
      ∧ ∀ j, j < (bitsOf [0x80]).length → ∀ w ∈ [true, false], (bitsOf [0x80])[j]? = some w →
        s.releasedAt (s.cycle + cellBegin s.timing (bitsOf [0x80]) j + s.timing.cellHigh w - 1) = true
        ∧ s.releasedAt (s.cycle + cellBegin s.timing (bitsOf [0x80]) (j + 1)) = true)
    ∧ ((bitsOf [0x80])[0]? = some true ∧ (dev 1 0 [(true, 1), (false, 1)]).releasedAt (0 + 2 - 1) = false)
    ∧ ((dev 1 0 [(true, 152), (false, 1)]).releasedAt (0 + 2 - 1) = true
      ∧ (dev 1 0 [(true, 152), (false, 1)]).releasedAt (0 + cellBegin (dev 1 0 []).timing (bitsOf [0x80]) 1) = false) :=
  ⟨by decide +kernel, by decide +kernel, by decide +kernel⟩
/-- Every check of every cell of 0x01 reads high although another device pulls low in cycle 150, in the first guard. -/
theorem witness_SendFrameDrivesUpToACollision :
    let s := dev 1 0 [(true, 150), (false, 1)]
    (s.releasedAt 150 = false
      ∧ ∀ j, j < (bitsOf [1]).length → ∀ w ∈ [true, false], (bitsOf [1])[j]? = some w →
        s.releasedAt (s.cycle + cellBegin s.timing (bitsOf [1]) j + s.timing.cellHigh w - 1) = true
        ∧ s.releasedAt (s.cycle + cellBegin s.timing (bitsOf [1]) (j + 1)) = true) ∧ isFrameBytes [1] = true
    ∧ ((bitsOf [1])[7]? = some true
      ∧ (∀ j, j < 7 → (dev 1 0 [(true, 1058), (false, 1)]).releasedAt (151 * j) = true
          ∧ (dev 1 0 [(true, 1058), (false, 1)]).releasedAt (151 * (j + 1)) = true)
      ∧ (∀ j, j ≤ 7 → cellBegin (dev 1 0 []).timing (bitsOf [1]) j = 151 * j)
      ∧ (dev 1 0 [(true, 1058), (false, 1)]).releasedAt (151 * 7 + 2 - 1) = false)
    ∧ (dev 1 0 [(true, 151), (false, 1)]).releasedAt 151 = false :=
  ⟨by decide +kernel, by decide, by decide +kernel, by decide +kernel⟩
theorem witness_FrameOnLineIsTheTransmission : isFrameBytes [1] = true ∧ ∀ c, (dev 1 0 []).releasedAt c = true :=
  ⟨by decide, releasedAt_quiet 1 0⟩

/-- A device in a state of ARB. -/
def arb (runs : List (Bool × Nat)) (st : BitVec 3) (sub : BitVec 2) (cnt : Count) : State :=
  { dev 1 0 runs with arbState := st, arbSub := sub, arbCnt := cnt, linePrev := false }

theorem witness_FrozenArbWritesNothing :
    (State.resetWith params).cfgValid = false ∧ { dev 1 0 [] with rxActive := true }.rxActive = true
    ∧ (dev 1 0 [(false, 1)]).trig = true ∧ (arb [] 4 0 0).arbState ≠ arbWaitingCode := by decide
theorem witness_WaitingServesInboundFirst :
    (arb [] 0 0 0).arbRuns (arb [] 0 0 0).hostLock = true
    ∧ { arb [] 0 0 0 with ring := [[1]] }.arbRuns false = true
    ∧ { arb [] 0 0 0 with txHeld := true }.arbRuns false = true
    ∧ ({ arb [] 0 0 0 with outq := [List.replicate 255 1] }.arbRuns false = true
      ∧ { arb [] 0 0 0 with outq := [List.replicate 255 1] }.txFrame.wf = true
      ∧ (List.replicate 255 (1 : Byte)).length ≤ 255) := by decide +kernel
theorem witness_ListeningChecksAndBacksOff :
    ((arb [(false, 1)] 1 0 0).arbRuns (arb [(false, 1)] 1 0 0).hostLock = true ∧ (arb [(false, 1)] 1 0 0).line = false)
    ∧ ((arb [] 1 0 0).arbRuns (arb [] 1 0 0).hostLock = true ∧ (arb [] 1 0 0).line = true)
    ∧ { arb [] 1 1 1 with notify := true }.arbRuns false = true
    ∧ ((arb [] 1 1 1).arbRuns (arb [] 1 1 1).hostLock = true ∧ (arb [] 1 1 2).arbCnt ≠ 1) := by decide +kernel
theorem witness_StartingStepsThroughItsPhases :
    (arb [] 2 0 4).arbRuns (arb [] 2 0 4).hostLock = true ∧ (arb [] 2 0 4).arbState = arbStartingCode
    ∧ 1 < (arb [] 2 0 2).arbCnt.toNat ∧ (arb [] 2 0 1).arbCnt = 1 ∧ (arb [] 2 1 1).arbSub = 1
    ∧ 1 < (arb [] 2 2 2).arbCnt.toNat ∧ (arb [] 2 2 1).arbCnt = 1 := by decide +kernel
theorem witness_StartingDrivesTheWholePreamble :
    let s := { arb [(false, 3)] 2 0 4 with drvLow := true }
    s.undisturbed ∧ (∀ c ∈ s.inputs, c.rst = false) ∧ s.cfgValid = true ∧ s.diagMode = false ∧ s.rxActive = false
    ∧ s.drvLow = true ∧ 4 = s.syncLowCyc ∧ s.arbCnt = BitVec.ofNat 32 4 ∧ 1 ≤ s.tpDelta.toNat
    ∧ 8 * s.tpDelta.toNat < 2 ^ 32 := by decide +kernel
theorem witness_SendingStepsThroughACell :
    let s0 := arb [] 3 0 0
    let low := arb [(false, 1)] 3 0 1
    (∀ s ∈ [arb [] 3 0 2, arb [] 3 0 1, low, { low with txBitidx := 7 }, s0, arb [] 3 1 150, { arb [] 3 1 1 with txBitidx := 1 },
        { arb [] 3 1 1 with txLen := 2 }, arb [] 3 1 1, arb [] 3 1 0, arb [(false, 1)] 3 1 0],
      s.arbRuns s.hostLock = true ∧ s.arbState = arbSendingCode ∧ s.txByteidx ≠ 255)
    ∧ (1 < (arb [] 3 0 2).arbCnt.toNat ∧ (arb [] 3 0 2).line = true) ∧ (arb [] 3 0 1).line = true
    ∧ (low.line = false ∧ low.arbCnt = BitVec.ofNat 32 low.tpDelta.toNat ∧ low.txBitidx ≠ 7
      ∧ (low.byte .txFrame 0).getLsbD 0 = false)
    ∧ s0.arbCnt = 0 ∧ 1 < (arb [] 3 1 150).arbCnt.toNat ∧ s0.txByteidx.toNat + 1 < (2 : Byte).toNat
    ∧ (arb [] 3 1 1).txLen.toNat ≤ 0 + 1 ∧ (arb [] 3 1 0).line = true ∧ (arb [(false, 1)] 3 1 0).line = false := by
  decide +kernel
/-- Sending at its first cycle, with a frame of one byte 0x01 held. -/
def sending (runs : List (Bool × Nat)) : State :=
  { arb runs 3 0 1 with txBitidx := 7, txLen := 1, txFrame := [(0, 1)], txHeld := true }

/-- A run on a free line, and one whose second cell finds the line held low at check 1. -/
theorem witness_SendingStepsMakeSendFrame :
    (∀ s ∈ [sending [], sending [(true, 151), (false, 1)]],
      s.undisturbed ∧ (∀ c ∈ s.inputs, c.rst = false) ∧ s.cfgValid = true ∧ s.diagMode = false ∧ s.rxActive = false
      ∧ s.txByteidx = 0 ∧ s.drvLow = false ∧ 1 ≤ s.txLen.toNat ∧ 1 ≤ s.tpDelta.toNat ∧ 2 * s.tpDelta.toNat < 2 ^ 32
      ∧ s.arbCnt = BitVec.ofNat 32
          (if (s.byte .txFrame 0).getLsbD 7 then 2 * s.tpDelta.toNat else s.tpDelta.toNat))
    ∧ raises (.sendFrame [1]) (sending []) = some []
    ∧ raises (.sendFrame [1]) (sending [(true, 151), (false, 1)]) ≠ some [] := by decide +kernel
theorem witness_ReadingPopsTheOldestCapture :
    let s := { arb [] 4 0 0 with ring := [List.replicate 255 1] }
    s.arbRuns s.hostLock = true ∧ s.rdFrame.wf = true ∧ s.ring = List.replicate 255 1 :: []
    ∧ (List.replicate 255 (1 : Byte)).length ≤ 255 := by decide +kernel
theorem witness_ReadingWaitsForRoom :
    let full := { arb [] 4 1 0 with inq := [[1], [1]] }
    ((arb [] 4 1 0).arbRuns (arb [] 4 1 0).hostLock = true ∧ (arb [] 4 1 0).inq.length < (arb [] 4 1 0).params.inqDepth)
    ∧ (full.arbRuns full.hostLock = true ∧ full.params.inqDepth ≤ full.inq.length ∧ full.arbCnt = 0)
    ∧ (arb [] 4 1 1).arbCnt ≠ 0 := by decide +kernel
/-- With nothing waiting, and with a SUBMIT and a RETRIEVE that wait. -/
theorem witness_ArbMovesOnlyAlongTheTable :
    let s := arb [] 1 1 1
    let w := { s with subWait := some ⟨[1], .forever⟩, retWait := true, calls := [⟨1, .host, [0x43]⟩] }
    (s.inputNow.rst = false ∧ s.hostLock = false ∧ (∀ c, s.calls.head? = some c → s.cycle < c.due)
      ∧ ∃ t, step s = .next t ∧ t.arbState ≠ s.arbState)
    ∧ (w.inputNow.rst = false ∧ w.hostLock = false ∧ (∀ c, w.calls.head? = some c → w.cycle < c.due)
      ∧ ∃ t, step w = .next t ∧ t.arbState ≠ w.arbState) :=
  ⟨⟨by decide, by decide, fun _ h => (nomatch h), _, rfl, by decide +kernel⟩,
    by decide, by decide, fun _ h => (by cases h; decide), _, rfl, by decide +kernel⟩
theorem witness_UnreachableStateIsFlaggedAndStays :
    let r := { dev 1 0 [] with rxActive := true, rxPhase := 6 }
    ((arb [] 5 0 0).undisturbed ∧ (arb [] 5 0 0).arbRuns false = true ∧ 5 ≤ (arb [] 5 0 0).arbState.toNat)
    ∧ (r.undisturbed ∧ r.diagMode = false ∧ r.rxActive = true ∧ 6 ≤ r.rxPhase.toNat)
    ∧ (∀ s ∈ [arb [] 0 1 0, arb [] 1 2 0, arb [] 2 3 1, arb [] 3 2 1, arb [] 4 2 0],
      s.undisturbed ∧ s.arbRuns false = true ∧ s.arbState.toNat ≤ 4 ∧ s.arbSubDefined = false ∧ s.ring = []) := by
  decide +kernel
theorem witness_UnreachableStateIsFlaggedAndStays_subPhase : ∃ u, step { arb [] 3 2 1 with arbSub := 0 } = .next u :=
  ⟨_, rfl⟩
theorem witness_SubmissionReachesTheLineOnTime :
    let s := { dev 15 7 [] with calls := [⟨0, .host, encode (.submit [1] (.cycles 0))⟩] }
    s.cfgValid = true ∧ s.inputs = [] ∧ s.linePrev = true ∧ s.drvLow = false ∧ s.rxActive = false ∧ s.diagMode = false
    ∧ s.hostLock = false ∧ s.subWait = none ∧ s.retWait = false ∧ s.arbState = arbWaitingCode ∧ s.arbSub = 0
    ∧ s.ring = [] ∧ s.outq = [] ∧ s.txHeld = false ∧ s.txFrame.wf = true ∧ 1 ≤ s.params.outqDepth
    ∧ 15 ≤ s.tpDelta.toNat ∧ 261 * s.tpDelta.toNat < 2 ^ 32 ∧ isFrameBytes [1] = true := by decide +kernel

theorem witness_InitRefusesInOrder :
    { dev 1 0 [] with inputs := [⟨false, false, .free⟩] }.inputNow.pinOk = false
    ∧ ((dev 1 0 []).inputNow.pinOk = true ∧ (dev 1 0 []).cfgValid = true ∧ (arb [] 4 0 0).arbState.toNat ∈ [1, 2, 3, 4]
      ∧ (dev 1 0 [(false, 1)]).trig = true) := by decide +kernel
theorem witness_InitConfiguresTheBlock :
    (0xFF : Byte) ≠ 0 ∧ (State.resetWith params).inputNow.pinOk = true ∧ (State.resetWith params).busy = false
    ∧ (State.resetWith params).params.legal = true := by decide +kernel
theorem witness_SubmitQueuesOrRefuses :
    let full := { dev 1 0 [] with outq := [[1], [1]] }
    ((dev 1 0 []).cfgValid = true ∧ (dev 1 0 []).subWait = none ∧ isFrameBytes [2] = false)
    ∧ (isFrameBytes [1] = true ∧ (dev 1 0 []).outq.length < (dev 1 0 []).params.outqDepth)
    ∧ (full.cfgValid = true ∧ full.subWait = none ∧ full.params.outqDepth ≤ full.outq.length
      ∧ Wait.cycles 1 ≠ .cycles 0) := by decide +kernel
/-- A device in which a SUBMIT waits, with frames in OUTQ and perhaps a RETRIEVE that waits beside it. -/
def waiting (w : Wait) (q : List (List Byte)) (r : Bool) : State :=
  { dev 1 0 [] with outq := q, subWait := some ⟨[1], w⟩, retWait := r }

/-- Such a device meets the invariant, whatever the wait. -/
theorem waiting_safe (w : Wait) (q : List (List Byte)) (r : Bool) (hq : q ∈ [[], [[1]], [[1], [1]]]) :
    (waiting w q r).safe := by
  have e : q.length ≤ 2 ∧ ∀ x ∈ q, 1 ≤ x.length ∧ x.length ≤ Config.maxFrame := by revert q; decide
  have off : ∀ {p : Prop}, false = true → p := fun h => absurd h Bool.false_ne_true
  exact ⟨(by decide : (dev 1 0 []).storageOk), ⟨Nat.zero_le _, Nat.zero_le _, e.1⟩,
    ⟨off, off, off, fun h => absurd h Bool.noConfusion, fun _ => (by decide : (dev 1 0 []).modeAddr ≠ 0)⟩,
    ⟨Nat.zero_le _, rfl, off, off⟩,
    ⟨fun _ h => (nomatch h), fun _ h => (nomatch h), e.2,
      fun _ h => (by cases h; exact ⟨Nat.le_refl 1, (by decide : 1 ≤ Config.maxFrame)⟩)⟩,
    off, off, (by decide : (dev 1 0 []).txByteidx ≠ 255), off,
    fun h => absurd h (by decide : (dev 1 0 []).arbState ≠ arbReadingCode),
    fun h => absurd h (by decide : (dev 1 0 []).arbState ≠ arbReadingCode)⟩

theorem witness_WaitingSubmitTriesOnceACycle :
    (∀ r ∈ [true, false], ∀ q ∈ [[], [[1]], [[1], [1]]], ∀ w ∈ [Wait.forever, .cycles 2, .cycles 1],
      (waiting w q r).safe ∧ (waiting w q r).inputNow.rst = false ∧ (waiting w q r).calls = []
      ∧ (waiting w q r).hostLock = false ∧ ∃ t, step (waiting w q r) = .next t)
    ∧ (waiting .forever [[1]] true).outq.length < (waiting .forever [[1]] true).params.outqDepth
    ∧ (waiting .forever [[1], [1]] true).params.outqDepth ≤ (waiting .forever [[1], [1]] true).outq.length
    ∧ 1 < (2 : Count).toNat ∧ (1 : Count).toNat ≤ 1 := by
  refine ⟨fun r _ q hq w _ => ⟨waiting_safe w q r hq, rfl, rfl, rfl, ?_⟩, by decide, by decide, by decide, by decide⟩
  simp only [List.mem_cons, List.not_mem_nil, or_false] at hq
  rcases hq with rfl | rfl | rfl <;> exact ⟨_, rfl⟩
theorem witness_RetrieveFollowsThePolicy :
    (dev 1 0 []).cfgValid = true ∧ (dev 1 0 []).retWait = false ∧ (dev 1 0 []).inq = []
    ∧ (dev 1 0 []).modeRdpol = false ∧ { dev 1 0 [] with modeRdpol := true }.modeRdpol = true := by decide
theorem witness_WaitingRetrieveSeesTheStartOfTheCycle :
    let s := waiting .forever [[1], [1]] true
    (s.inputNow.rst = false ∧ s.calls = [] ∧ s.hostLock = false ∧ s.retWait = true ∧ s.inq = []
      ∧ ∃ t, step s = .next t) ∧ (∃ t, step { s with subWait := none } = .next t)
    ∧ ∃ t, step { s with inq := [[1], [2, 2]] } = .next t :=
  ⟨⟨rfl, rfl, rfl, rfl, rfl, _, rfl⟩, ⟨_, rfl⟩, _, rfl⟩
theorem witness_NothingRunsBeforeInit :
    (State.resetWith params).cfgValid = false ∧ (State.resetWith params).subWait = none
    ∧ (State.resetWith params).retWait = false := by decide

theorem witness_ProbesAreAcceptedWhenIdle :
    ((dev 1 0 []).cfgValid = true ∧ (dev 1 0 []).arbState = arbWaitingCode ∧ (dev 1 0 []).rxActive = false
      ∧ (dev 1 0 []).trig = false ∧ (dev 1 0 []).diagMode = false)
    ∧ (dev 1 0 [(false, 1)]).trig = true ∧ { dev 1 0 [] with diagMode := true }.diagMode = true := by decide

/-- A running probe. -/
def probe (p : Probe) (ph : BitVec 4) (tmr : Nat) (ins : List CycleIn) : State :=
  { dev 1 0 [] with
    diagMode := true, diagOp := some p, diagPhase := ph, diagTmr := BitVec.ofNat 32 tmr, inputs := ins }

/-- A line whose fall comes three cycles late and that stays low for fifteen cycles after its release. -/
def slowEdges : List CycleIn :=
  List.replicate 3 ⟨false, true, .lags⟩ ++ [⟨false, true, .free⟩] ++ List.replicate 15 ⟨false, true, .pulls⟩

/-- The first cycle of DIAG_ELEC, 20 cycles before its ceiling. -/
def elec (ins : List CycleIn) : State := { probe .elec 1 20 ins with drvLow := true }

/-- The last rise before the ceiling, a line that never falls, and one that falls in the last cycle before it. -/
theorem witness_ElecProbeMeasuresTheEdges :
    (∀ s ∈ [elec slowEdges, elec (List.replicate 20 ⟨false, true, .lags⟩), elec (List.replicate 19 ⟨false, true, .lags⟩)],
      s.undisturbed ∧ (∀ c ∈ s.inputs, c.rst = false) ∧ s.cfgValid = true ∧ s.rxActive = false ∧ s.diagMode = true
      ∧ s.diagOp = some .elec ∧ s.diagPhase = 1 ∧ s.diagCnt = 0 ∧ s.drvLow = true ∧ 20 = s.params.tmoElec
      ∧ s.diagTmr = BitVec.ofNat 32 20)
    ∧ 3 + 1 + 15 < 20
    ∧ (∀ k, k < 3 → ((elec slowEdges).inputAt (0 + k)).line.level true = true)
    ∧ ((elec slowEdges).inputAt (0 + 3)).line.level true = false
    ∧ (∀ k, k < 15 → (elec slowEdges).releasedAt (0 + 3 + 1 + k) = false)
    ∧ (elec slowEdges).releasedAt (0 + 3 + 1 + 15) = true
    ∧ (∀ k, k < 20 → ((elec (List.replicate 20 ⟨false, true, .lags⟩)).inputAt (0 + k)).line.level true = true)
    ∧ ((elec (List.replicate 19 ⟨false, true, .lags⟩)).inputAt (0 + 19)).line.level true = false := by decide +kernel
theorem witness_ProbesTimeOutOnAQuietLine :
    let s := fun p => probe p 1 9 (onLine [(true, 2)])
    (s .timing).undisturbed ∧ (∀ c ∈ (s .timing).inputs, c.rst = false) ∧ (s .timing).cfgValid = true
    ∧ (s .timing).rxActive = false ∧ (s .timing).drvLow = false ∧ (s .timing).dsBit0 = 0
    ∧ (∀ k, k < 9 → (s .timing).lineAt (0 + k) = false →
        (if k = 0 then (s .timing).linePrev else (s .timing).lineAt (0 + k - 1)) = false)
    ∧ (s .yield).undisturbed
    ∧ (∀ k, k < 9 → (s .yield).lineAt (0 + k) = false →
        (if k = 0 then (s .yield).linePrev else (s .yield).lineAt (0 + k - 1)) = false) := by decide +kernel
/-- A probe in a phase, with the cycles of its run, on a line at a level. -/
def inPhase (p : Probe) (ph : BitVec 4) (n tmr : Nat) (level : Bool) : State :=
  { probe p ph tmr (onLine [(level, 1)]) with diagCnt := BitVec.ofNat 32 n }

/-- What the statements about one cycle of a probe ask of the state. -/
abbrev probing (p : Probe) (s : State) : Prop :=
  s.undisturbed ∧ s.cfgValid = true ∧ s.rxActive = false ∧ s.diagMode = true ∧ s.diagOp = some p

/-- Each clause at the last count that it allows. -/
theorem witness_TimingProbeClassifiesEachPhase :
    let st := fun ph n level => inPhase .timing ph n 1 level
    (∀ s ∈ [st 1 0 true, st 1 0 false, st 2 1 false, st 2 1 true, st 3 1 true, st 3 1 false, st 4 1 false, st 4 1 true,
        st 5 9 false, st 5 9 true, st 6 24 true, { st 6 1 false with diagBit := 6 },
        { st 6 1 false with diagBit := 7, diagIdx := 254 }, st 7 9 false, st 7 9 true, st 8 2 true],
      probing .timing s ∧ s.diagTmr ≠ 0 ∧ s.diagBuf.wf = true)
    ∧ (st 1 0 true).fall = false ∧ (st 1 0 false).fall = true ∧ (st 2 1 true).line = true ∧ (st 2 1 false).line = false
    ∧ (∀ n ∈ [9], n < 10 * (st 5 n false).tpDelta.toNat) ∧ (∀ n ∈ [24], n < 25 * (st 6 n true).tpDelta.toNat)
    ∧ (st 8 2 true).diagCnt.toNat ≤ 2 * (st 8 2 true).tpDelta.toNat + (st 8 2 true).tpTol.toNat := by decide +kernel
theorem witness_TimingProbeEndsWithItsMask :
    let st := fun ph n tmr level => inPhase .timing ph n tmr level
    (∀ s ∈ [st 1 0 0 false, st 2 1 0 true, st 8 3 0 false, st 5 10 1 false, st 7 10 1 false, st 6 25 1 true,
      st 8 2 1 false, st 8 3 1 true], probing .timing s)
    ∧ (st 1 0 0 false).diagTmr = 0 ∧ (st 5 10 1 false).diagTmr ≠ 0
    ∧ (st 5 10 1 false).line = false ∧ 10 * (st 5 10 1 false).tpDelta.toNat ≤ (st 5 10 1 false).diagCnt.toNat
    ∧ (st 6 25 1 true).line = true ∧ 25 * (st 6 25 1 true).tpDelta.toNat ≤ (st 6 25 1 true).diagCnt.toNat
    ∧ (st 8 2 1 false).diagCnt.toNat ≤ 2 * (st 8 2 1 false).tpDelta.toNat + (st 8 2 1 false).tpTol.toNat
    ∧ 2 * (st 8 3 1 true).tpDelta.toNat + (st 8 3 1 true).tpTol.toNat < (st 8 3 1 true).diagCnt.toNat := by
  decide +kernel
theorem witness_YieldProbeLooksForATag :
    let st := fun ph n level => inPhase .yield ph n 1 level
    (∀ s ∈ [inPhase .yield 1 0 0 true, inPhase .yield 13 0 0 true, st 1 0 false, st 1 0 true, st 2 1 true, st 2 10 false,
        st 2 9 false, st 3 25 true, st 3 24 true, st 3 5 false, st 3 6 false, st 4 1 true, st 4 10 false, st 4 9 false,
        st 5 1 true, st 5 10 false, st 5 9 false, st 6 25 true, st 6 24 true, st 6 1 false, st 7 10 false, st 7 9 false,
        inPhase .yield 7 1 1383 true, st 13 0 true], probing .yield s)
    ∧ (inPhase .yield 1 0 0 true).diagTmr = 0 ∧ (st 1 0 true).diagTmr ≠ 0
    ∧ (st 1 0 false).fall = true ∧ (st 1 0 true).fall = false ∧ (st 2 1 true).line = true ∧ (st 2 1 false).line = false
    ∧ (st 3 5 false).diagCnt.toNat < 6 * (st 3 5 false).tpDelta.toNat
    ∧ 6 * (st 3 6 false).tpDelta.toNat ≤ (st 3 6 false).diagCnt.toNat
    ∧ (inPhase .yield 7 1 1383 true).diagTmr.toNat
        ≤ 8 * ((st 7 1 true).tpDelta.toNat + 150) + 25 * (st 7 1 true).tpDelta.toNat + 150 := by decide +kernel
theorem witness_InjectionIsEightDominantCells :
    let s := probe .yield 7 1384 (onLine [(true, 1)])
    s.undisturbed ∧ (∀ c ∈ s.inputs, c.rst = false) ∧ s.cfgValid = true ∧ s.rxActive = false ∧ s.drvLow = false
    ∧ s.line = true ∧ 1 ≤ s.tpDelta.toNat
    ∧ 8 * (s.tpDelta.toNat + 150) + 25 * s.tpDelta.toNat + 150 < s.diagTmr.toNat := by decide +kernel
theorem witness_YieldOutcomeFollowsTheLine :
    let s := fun r => probe .yield 11 1 (onLine r)
    ((s [(true, 26)]).undisturbed ∧ (s [(true, 26)]).diagCnt = 0 ∧ (s [(true, 26)]).drvLow = false
      ∧ 25 * (s [(true, 26)]).tpDelta.toNat < 2 ^ 32 ∧ 25 ≤ 25 * (s []).tpDelta.toNat)
    ∧ ∀ r ∈ [[(true, 26)], [(true, 25), (false, 150), (true, 1)], [(true, 0), (false, 151)]], follows (s r).lineAt 0 r :=
  ⟨⟨by decide, by decide, by decide, by decide, by decide⟩, fun r _ => dev_follows 1 0 r⟩

end Sys2Proof.Tests
end

section
/-! SUPPORT. Obligation O3: what a step is when a call is issued in its cycle, through the three parts of a step: what the
cycle fetches, what the fetched call is, and what its operation does. -/

namespace Sys2Proof.Machine

/-! ### Outcomes in sequence -/

@[simp] theorem andThen_next_left (s : State) (f : State → Host.Outcome State Fault Refusal) :
    andThen (.next s) f = f s := rfl

@[simp] theorem andThen_next_right (o : Host.Outcome State Fault Refusal) : andThen o .next = o := by
  cases o <;> rfl

/-! ### What the cycle fetches -/

/-- Only an operation that runs on its own ever waits (entry 7). -/
theorem State.admits_of_kindOf_ne_run (s : State) (i : Instr) (h : kindOf i ≠ .run) : s.admits i = true := by
  cases i with
  | arbWaiting | arbListening | arbStarting | arbSending | arbReading => rfl
  | validate | init | submit | retrieve | readStatus | diagElec | diagTiming | diagYield => rfl
  | _ => exact absurd rfl h

theorem State.admitsCall_of_decode (s : State) {c : Call} {i : Instr} (h : decode c.record = .ok i) :
    s.admitsCall c = s.admits i := by
  simp only [State.admitsCall, h]

theorem State.takeWhile_hostDue_eq_nil (s : State) (cs : List Call)
    (h : ∀ d, cs.head? = some d → s.cycle < d.due ∨ d.issuer = .block) : cs.takeWhile s.hostDue = [] := by
  cases cs with
  | nil => rfl
  | cons d r =>
    have hd : s.hostDue d = false := by
      rcases h d rfl with hlate | hblock
      · simp [State.hostDue, Nat.not_le.mpr hlate]
      · simp [State.hostDue, hblock]
    simp [hd]

section
variable {s : State} {c : Call} {rest : List Call}

theorem State.fetch_block_of_admits (hc : s.calls = c :: rest) (hd : c.due ≤ s.cycle) (hb : c.issuer = .block)
    (ha : s.admitsCall c = true) : s.fetch = .block c rest := by
  simp [State.fetch, hc, Nat.not_lt.mpr hd, hb, ha]

theorem State.fetch_block_of_held (hc : s.calls = c :: rest) (hd : c.due ≤ s.cycle) (hb : c.issuer = .block)
    (ha : s.admitsCall c = false) (hq : rest.takeWhile s.hostDue = []) : s.fetch = .idle := by
  simp [State.fetch, hc, Nat.not_lt.mpr hd, hb, ha, State.hostFetch, hq]

theorem State.fetch_host_alone (hc : s.calls = c :: rest) (hd : c.due ≤ s.cycle) (hh : c.issuer = .host)
    (hq : rest.takeWhile s.hostDue = []) : s.fetch = .host [c] rest := by
  have hdue : s.hostDue c = true := by simp [State.hostDue, hd, hh]
  simp [State.fetch, hc, Nat.not_lt.mpr hd, hh, State.hostFetch, hdue, hq]

end

theorem step_of_fetch {s : State} {f : Fetch} (hr : s.inputNow.rst = false) (hf : s.fetch = f) :
    step s = runFetch f s := by
  simp [step, hr, hf]

/-! ### A call of the block -/

/-- The operation of another state than ARB_STATE writes nothing (44_arbitration.md R215). -/
theorem arbOperation_other (code : BitVec 3) (op : State → State → State) (s : State) (h : s.arbState ≠ code) :
    arbOperation code op s = .next s := by
  simp [arbOperation, h]

theorem exec_arb_other (i : Instr) (s : State) (hk : kindOf i = .arb) (hs : arbStateOf i ≠ some s.arbState) :
    exec i s = .next s := by
  have other : ∀ {code : BitVec 3}, some code ≠ some s.arbState → s.arbState ≠ code :=
    fun h e => h (congrArg some e.symm)
  cases i with
  | arbWaiting | arbListening | arbStarting | arbSending | arbReading => exact arbOperation_other _ _ s (other hs)
  | _ => cases hk

theorem blockOp_run {i : Instr} (s : State) (hk : kindOf i = .run) :
    blockOp i s = andThen (exec i s) (fun t => .next (cutByReset s t)) := by
  simp only [blockOp, hk]

theorem blockOp_call {i : Instr} (s : State) (hk : kindOf i = .call) : blockOp i s = andThen (exec i s) (clockOut s) := by
  simp only [blockOp, hk]

/-- The operation of ARB_STATE is ARB's step of the cycle: the lock keeps ARB from a second one. -/
theorem blockOp_arb_own {i : Instr} (s : State) (hk : kindOf i = .arb) (hs : arbStateOf i = some s.arbState) :
    blockOp i s = andThen (exec i s) (fun t => clockOut s { t with hostLock := true }) := by
  simp only [blockOp, hk, hs, if_true]

theorem blockOp_arb_other {i : Instr} (s : State) (hk : kindOf i = .arb) (hs : arbStateOf i ≠ some s.arbState) :
    blockOp i s = clockOut s s := by
  simp only [blockOp, hk, exec_arb_other i s hk hs, andThen_next_left, if_neg hs]

/-- The step of a cycle whose first call is an operation of the block that does not wait. -/
theorem step_block_admitted {s : State} {c : Call} {rest : List Call} {i : Instr} (hr : s.inputNow.rst = false)
    (hc : s.calls = c :: rest) (hd : c.due ≤ s.cycle) (hi : decode c.record = .ok i) (hb : c.issuer = .block)
    (ha : s.admits i = true) : step s = blockOp i { s with calls := rest } := by
  have hf := State.fetch_block_of_admits hc hd hb ((s.admitsCall_of_decode hi).trans ha)
  simp only [step_of_fetch hr hf, runFetch, blockCall, hi]

/-- A call of the block that waits leaves the cycle to the agents, unless a call of HOST passes it. -/
theorem step_block_held {s : State} {c : Call} {rest : List Call} {i : Instr} (hr : s.inputNow.rst = false)
    (hc : s.calls = c :: rest) (hd : c.due ≤ s.cycle) (hi : decode c.record = .ok i) (hb : c.issuer = .block)
    (ha : s.admits i = false) (hq : rest.takeWhile s.hostDue = []) : step s = clockOut s s :=
  step_of_fetch hr (State.fetch_block_of_held hc hd hb ((s.admitsCall_of_decode hi).trans ha) hq)

/-! ### A call of HOST -/

theorem twoOfClass_singleton (i : Instr) : twoOfClass [i] = false := by
  cases h : classOf i <;> simp [twoOfClass, ofClass, h]

theorem inOrder_singleton (i : Instr) : inOrder [i] = [i] := by
  cases h : classOf i <;> simp [inOrder, ofClass, h]

theorem execAll_singleton (i : Instr) (s : State) : execAll [i] s = exec i s := andThen_next_right _

theorem hostOp_of_decode {c : Call} {i : Instr} (hi : decode c.record = .ok i) (hh : issuerOf i = .host) :
    hostOp c = some i := by
  simp only [hostOp, hi, hh, if_true]

/-- One operation of HOST alone in its cycle: no refusal, no E_BAD_OP, its effect and the agents around it. -/
theorem hostCalls_singleton {c : Call} {i : Instr} (s : State) (ho : hostOp c = some i) :
    hostCalls [c] s = andThen (exec i s) (clockOut s) := by
  have his : [c].filterMap hostOp = [i] := by simp [ho]
  have hbad : badOps [c] s = s := by simp [badOps, ho]
  simp [hostCalls, his, hbad, twoOfClass_singleton, inOrder_singleton, execAll_singleton]

theorem step_host_alone {s : State} {c : Call} {rest : List Call} {i : Instr} (hr : s.inputNow.rst = false)
    (hc : s.calls = c :: rest) (hd : c.due ≤ s.cycle) (hh : c.issuer = .host) (ho : hostOp c = some i)
    (hq : rest.takeWhile s.hostDue = []) :
    step s = andThen (exec i { s with calls := rest }) (clockOut { s with calls := rest }) :=
  (step_of_fetch hr (State.fetch_host_alone hc hd hh hq)).trans (hostCalls_singleton _ ho)

/-! ### The statement -/

/-- Settles O3: the fetched call's operation, by its issuer and its kind. -/
theorem stepRunsTheDecodedOperation : Obligations.StepRunsTheDecodedOperation := by
  intro s c rest i hr hc hd hi _
  have block := step_block_admitted hr hc hd hi
  have admitted : kindOf i ≠ .run → s.admits i = true := s.admits_of_kindOf_ne_run i
  refine ⟨fun hb hk ha => ?run, fun hb ha hq => ?held, fun hb hk hs => ?arbOwn, fun hb hk hs => ?arbOther,
    fun hb hk => ?call, fun hh hi' hq => ?host⟩
  case run => exact (block hb ha).trans (blockOp_run _ hk)
  case held => exact step_block_held hr hc hd hi hb ha (s.takeWhile_hostDue_eq_nil rest hq)
  case arbOwn => exact (block hb (admitted (by simp [hk]))).trans (blockOp_arb_own _ hk hs)
  case arbOther => exact (block hb (admitted (by simp [hk]))).trans (blockOp_arb_other _ hk hs)
  case call => exact (block hb (admitted (by simp [hk]))).trans (blockOp_call _ hk)
  case host => exact step_host_alone hr hc hd hh (hostOp_of_decode hi hi') (s.takeWhile_hostDue_eq_nil rest hq)

end Sys2Proof.Machine
end

section
/-! SUPPORT. Obligation O8: under the invariant no part of a step faults and none raises STAT_INVARIANT. Each agent's
writes keep STAT_INVARIANT while its state register holds a defined code; the indices of the invariant rule the faults
out; and the parts of a step, put in sequence, inherit both. -/

namespace Sys2Proof.Machine

/-! ### RX keeps STAT_INVARIANT -/

@[simp] theorem State.rxGo_statInvariant (s : State) (ph : BitVec 3) :
    (s.rxGo ph).statInvariant = s.statInvariant := rfl

@[simp] theorem State.rxCount_statInvariant (s0 s : State) :
    (State.rxCount s0 s).statInvariant = s.statInvariant := rfl

@[simp] theorem State.endCapture_statInvariant (s0 s : State) (b : List Byte) :
    (State.endCapture s0 s b).statInvariant = s.statInvariant := by
  unfold State.endCapture
  split <;> rfl

theorem rxByteDone_statInvariant (s0 s : State) (b : Byte) :
    (rxByteDone s0 s b).statInvariant = s.statInvariant := by
  simp [rxByteDone, apply_ite State.statInvariant]

theorem rxStep_statInvariant (s0 s : State) (h : 1 ≤ s0.rxPhase.toNat ∧ s0.rxPhase.toNat ≤ 5) :
    (rxStep s0 s).statInvariant = s.statInvariant := by
  rcases (by omega : s0.rxPhase.toNat = 1 ∨ s0.rxPhase.toNat = 2 ∨ s0.rxPhase.toNat = 3 ∨ s0.rxPhase.toNat = 4
    ∨ s0.rxPhase.toNat = 5) with e | e | e | e | e <;> simp only [rxStep, e]
  · simp [rxSyncLow, apply_ite State.statInvariant]
  · simp [rxSyncHigh, apply_ite State.statInvariant]
  · simp [rxBsLow, apply_ite State.statInvariant]
  · simp [rxBitLow, apply_ite State.statInvariant]
  · simp [rxBitHigh, rxBitDone, rxByteDone_statInvariant, apply_ite State.statInvariant]

theorem rxCycle_statInvariant (s0 s : State)
    (h : s0.rxActive = true → 1 ≤ s0.rxPhase.toNat ∧ s0.rxPhase.toNat ≤ 5) :
    (rxCycle s0 s).statInvariant = s.statInvariant := by
  unfold rxCycle
  split
  next active => exact rxStep_statInvariant s0 s (h active)
  next => split <;> rfl

/-! ### ARB keeps STAT_INVARIANT -/

@[simp] theorem State.enterCell_statInvariant (s0 s : State) (j : Byte) (i : BitVec 3) :
    (State.enterCell s0 s j i).statInvariant = s.statInvariant := rfl

@[simp] theorem State.enterStarting_statInvariant (s0 s : State) :
    (State.enterStarting s0 s).statInvariant = s.statInvariant := rfl

@[simp] theorem State.toListening_statInvariant (s : State) : s.toListening.statInvariant = s.statInvariant := rfl

@[simp] theorem State.sendDone_statInvariant (s : State) : s.sendDone.statInvariant = s.statInvariant := rfl

@[simp] theorem State.raiseTxStart_statInvariant (s0 s : State) :
    (State.raiseTxStart s0 s).statInvariant = s.statInvariant := by
  unfold State.raiseTxStart
  split <;> rfl

theorem arbWaiting_statInvariant (s0 s : State) : (arbWaiting s0 s).statInvariant = s.statInvariant := by
  unfold arbWaiting
  split
  · rfl
  · split
    · rfl
    · split <;> rfl

theorem arbListening_statInvariant (s0 s : State) : (arbListening s0 s).statInvariant = s.statInvariant := by
  simp [arbListening, listenBackoff, listenCheck, apply_ite State.statInvariant]

theorem arbStarting_statInvariant (s0 s : State) : (arbStarting s0 s).statInvariant = s.statInvariant := by
  simp [arbStarting, startBsHigh, startBsLow, startSyncLow, apply_ite State.statInvariant]

theorem arbSending_statInvariant (s0 s : State) : (arbSending s0 s).statInvariant = s.statInvariant := by
  simp [arbSending, sendGuard, guardEnd, sendHigh, apply_ite State.statInvariant]

theorem arbReading_statInvariant (s0 s : State) : (arbReading s0 s).statInvariant = s.statInvariant := by
  unfold arbReading
  split
  · simp [readWait, apply_ite State.statInvariant]
  · unfold readPop
    split <;> rfl

theorem arbStep_statInvariant (s0 s : State) (hstate : s0.arbState.toNat ≤ 4) (hsub : s0.arbSubDefined = true) :
    (arbStep s0 s).statInvariant = s.statInvariant := by
  rcases (by omega : s0.arbState.toNat = 0 ∨ s0.arbState.toNat = 1 ∨ s0.arbState.toNat = 2 ∨ s0.arbState.toNat = 3
    ∨ s0.arbState.toNat = 4) with e | e | e | e | e <;> simp only [arbStep, e, arbRun_defined _ s0 s hsub]
  · exact arbWaiting_statInvariant s0 s
  · exact arbListening_statInvariant s0 s
  · exact arbStarting_statInvariant s0 s
  · exact arbSending_statInvariant s0 s
  · exact arbReading_statInvariant s0 s

theorem arbCycle_statInvariant (s0 s : State) (hstate : s0.arbState.toNat ≤ 4) (hsub : s0.arbSubDefined = true) :
    (arbCycle s0 s).statInvariant = s.statInvariant := by
  unfold arbCycle
  split
  · exact arbStep_statInvariant s0 s hstate hsub
  · rfl

/-! ### DIAG keeps STAT_INVARIANT -/

@[simp] theorem State.endElec_statInvariant (s : State) (fall rise period : Count) (tmo : Bool) :
    (s.endElec fall rise period tmo).statInvariant = s.statInvariant := rfl

@[simp] theorem State.finishTiming_statInvariant (s : State) (v : Mask) (st : Status) :
    (s.finishTiming v st).statInvariant = s.statInvariant := rfl

@[simp] theorem State.recordWidth_statInvariant (s0 s : State) (v : Bool) :
    (State.recordWidth s0 s v).statInvariant = s.statInvariant := by
  unfold State.recordWidth
  split
  · split <;> rfl
  · split <;> rfl

@[simp] theorem State.endYield_statInvariant (s : State) (outcome : BitVec 2) (st : Status) :
    (s.endYield outcome st).statInvariant = s.statInvariant := rfl

@[simp] theorem State.injectHigh_statInvariant (s0 s : State) (n : Nat) :
    (State.injectHigh s0 s n).statInvariant = s.statInvariant := by
  unfold State.injectHigh
  split <;> rfl

theorem elecStep_statInvariant (s0 s : State) (h : s0.diagPhase ∈ probePhases .elec) :
    (elecStep s0 s).statInvariant = s.statInvariant := by
  simp only [probePhases, List.mem_cons, List.not_mem_nil, or_false] at h
  rcases h with e | e <;> simp [elecStep, e, elecFall, elecRise, apply_ite State.statInvariant]

theorem timingStep_statInvariant (s0 s : State) (h : s0.diagPhase ∈ probePhases .timing) :
    (timingStep s0 s).statInvariant = s.statInvariant := by
  simp only [probePhases, List.mem_cons, List.not_mem_nil, or_false] at h
  rcases h with e | e | e | e | e | e | e | e <;>
    simp [timingStep, e, timingEdge, timingSyncLow, timingSyncHigh, timingBsLow, timingBitLow, timingBitHigh,
      timingBitDone, timingByteDone, timingLastGuard, timingTrailing, timingComplete, timingCeiling, timingFault,
      apply_ite State.statInvariant]

theorem yieldStep_statInvariant (s0 s : State) (h : s0.diagPhase ∈ probePhases .yield) :
    (yieldStep s0 s).statInvariant = s.statInvariant := by
  simp only [probePhases, List.mem_cons, List.not_mem_nil, or_false] at h
  rcases h with e | e | e | e | e | e | e | e | e | e | e | e <;>
    simp [yieldStep, e, yieldEdge, yieldSyncLow, yieldSyncHigh, yieldBsLow, yieldBitLow, yieldBitHigh, yieldGuard,
      yieldInjLow, yieldAfterHigh, yieldAfterLow, yieldCeiling, yieldFault, apply_ite State.statInvariant]

theorem diagCycle_statInvariant (s0 s : State)
    (h : s0.diagMode = true → ∃ p, s0.diagOp = some p ∧ s0.diagPhase ∈ probePhases p) :
    (diagCycle s0 s).statInvariant = s.statInvariant := by
  unfold diagCycle
  split
  next running =>
    obtain ⟨p, hop, hphase⟩ := h running
    cases p <;> simp only [diagStep, hop]
    case elec => exact elecStep_statInvariant s0 s hphase
    case timing => exact timingStep_statInvariant s0 s hphase
    case yield => exact yieldStep_statInvariant s0 s hphase
  next => rfl

/-! ### The clock cycle -/

theorem hostCycle_statInvariant (s0 s : State) : (hostCycle s0 s).statInvariant = s.statInvariant := by
  rw [hostCycle_only s0 s]

/-- In a cycle that begins with the invariant the agents leave STAT_INVARIANT as the calls of the cycle left it. -/
theorem clock_statInvariant {s0 : State} (h : s0.safe) (s1 : State) :
    (clock s0 s1).statInvariant = s1.statInvariant := by
  obtain ⟨-, -, -, ⟨hstate, hsub, hrx, hdiag⟩, -, -⟩ := h
  rw [clock, State.endCycle_statInvariant, diagCycle_statInvariant s0 _ hdiag, arbCycle_statInvariant s0 _ hstate hsub,
    rxCycle_statInvariant s0 _ hrx, hostCycle_statInvariant]

/-! ### No agent faults under the invariant (20_memory.md R71, R76) -/

/-- The only index a byte register has that a buffer of MAX_FRAME bytes has not (20_memory.md R71). -/
theorem maxFrame_le_toNat_iff (i : Byte) : Config.maxFrame ≤ i.toNat ↔ i = 255 := by
  have hlt : i.toNat < 256 := i.isLt
  have hnat : i = 255 ↔ i.toNat = 255 := BitVec.toNat_inj.symm
  rw [hnat, Config.maxFrame]
  omega

theorem rxIndexFault_of_safe {s : State} (h : s.safe) : rxIndexFault s = false := by
  obtain ⟨-, -, -, -, -, hrx, -⟩ := h
  rw [Bool.eq_false_iff]
  intro hfault
  simp only [rxIndexFault, Bool.and_eq_true, decide_eq_true_eq, maxFrame_le_toNat_iff] at hfault
  obtain ⟨⟨⟨⟨active, -⟩, -⟩, -⟩, last⟩ := hfault
  exact hrx active last

theorem diagIndexFault_of_safe {s : State} (h : s.safe) : diagIndexFault s = false := by
  obtain ⟨-, -, -, -, -, -, -, -, hdiag, -⟩ := h
  rw [Bool.eq_false_iff]
  intro hfault
  simp only [diagIndexFault, Bool.and_eq_true, beq_iff_eq, decide_eq_true_eq, maxFrame_le_toNat_iff] at hfault
  obtain ⟨⟨⟨⟨⟨⟨running, timing⟩, phase⟩, -⟩, -⟩, -⟩, last⟩ := hfault
  exact hdiag running timing (by simp [phase]) last

/-- The head of a FIFO whose elements fit a buffer fits it; an empty FIFO reads as the empty element. -/
theorem not_maxFrame_lt_length_headD {q : List (List Byte)}
    (h : ∀ x ∈ q, 1 ≤ x.length ∧ x.length ≤ Config.maxFrame) : ¬ Config.maxFrame < (q.headD []).length := by
  cases q with
  | nil => exact Nat.not_lt_zero _
  | cons f r => exact Nat.not_lt.mpr (h f List.mem_cons_self).2

/-- ARB never meets what has no effect: OUTQ's head and RING's fit their buffers, TX_BYTEIDX is an index TX_FRAME has, and
Reading that has not popped yet has a capture to pop. -/
theorem arbNoEffect_of_safe {s : State} (h : s.safe) : s.arbNoEffect = none := by
  obtain ⟨-, -, -, ⟨hstate, hsub, -⟩, ⟨hring, -, houtq, -⟩, -, -, htx, -, hpop, -⟩ := h
  rcases (by omega : s.arbState.toNat = 0 ∨ s.arbState.toNat = 1 ∨ s.arbState.toNat = 2 ∨ s.arbState.toNat = 3
    ∨ s.arbState.toNat = 4) with e | e | e | e | e <;> simp only [State.arbNoEffect, e]
  case inl => simp only [not_maxFrame_lt_length_headD houtq, decide_false, Bool.and_false, Bool.false_eq_true, if_false]
  · exact if_neg (mt (maxFrame_le_toNat_iff _).mp htx)
  · split
    · rfl
    next unpopped =>
      have hreading : s.arbState = arbReadingCode := BitVec.eq_of_toNat_eq e
      have hsub0 : s.arbSub = 0 := by
        simp only [State.arbSubDefined, e, decide_eq_true_eq] at hsub
        bv_omega
      rw [if_neg (by simpa using hpop hreading hsub0), if_neg (not_maxFrame_lt_length_headD hring)]

theorem arbFault_of_safe {s : State} (h : s.safe) : s.arbFault = none := by
  simp [State.arbFault, arbNoEffect_of_safe h]

theorem agentFault_of_safe {s0 : State} (h : s0.safe) (s1 : State) : agentFault s0 s1 = none := by
  simp [agentFault, rxIndexFault_of_safe h, diagIndexFault_of_safe h, arbFault_of_safe h]

/-! ### Harmless outcomes -/

/-- What the statement asks of a step, asked of one part of it: no fault, and STAT_INVARIANT is set only if `flag`, its
value before that part, was. -/
def Harmless (flag : Bool) : Host.Outcome State Fault Refusal → Prop
  | .next t => t.statInvariant = true → flag = true
  | .fault _ => False
  | .refused _ => True

theorem harmless_next {s t : State} (h : t.statInvariant = s.statInvariant) : Harmless s.statInvariant (.next t) :=
  fun ht => h ▸ ht

theorem Harmless.ne_fault {b : Bool} {o : Host.Outcome State Fault Refusal} (h : Harmless b o) (f : Fault) :
    o ≠ .fault f := by
  rintro rfl
  exact h

theorem Harmless.mono {b c : Bool} {o : Host.Outcome State Fault Refusal} (h : Harmless c o)
    (hcb : c = true → b = true) : Harmless b o := by
  cases o with
  | next t => exact fun ht => hcb (h ht)
  | fault f => exact h
  | refused r => trivial

theorem Harmless.andThen {b : Bool} {o : Host.Outcome State Fault Refusal}
    {k : State → Host.Outcome State Fault Refusal} (ho : Harmless b o) (hk : ∀ t, Harmless t.statInvariant (k t)) : Harmless b (andThen o k) := by
  cases o with
  | next t => exact (hk t).mono ho
  | fault f => exact ho
  | refused r => trivial

theorem clockOut_harmless {s0 : State} (h : s0.safe) (s1 : State) : Harmless s1.statInvariant (clockOut s0 s1) := by
  simp only [clockOut, agentFault_of_safe h]
  exact harmless_next (clock_statInvariant h s1)

/-! ### Operations -/

theorem execRxFrame_harmless (s : State) : Harmless s.statInvariant (execRxFrame s) := by
  unfold execRxFrame
  split
  · refine harmless_next ?_
    split <;> simp [State.storeCapture]
  · exact harmless_next rfl

theorem execInit_harmless (m : BusMode) (s : State) : Harmless s.statInvariant (execInit m s) := by
  unfold execInit
  split
  · exact fun flagged => absurd flagged Bool.false_ne_true
  · exact harmless_next rfl

theorem execSubmit_harmless (b : List Byte) (w : Wait) (s : State) :
    Harmless s.statInvariant (execSubmit b w s) := by
  unfold execSubmit
  split
  · trivial
  · split
    · exact harmless_next rfl
    · split
      · exact harmless_next rfl
      · split
        · exact harmless_next rfl
        · split <;> exact harmless_next rfl

theorem execRetrieve_harmless (s : State) : Harmless s.statInvariant (execRetrieve s) := by
  unfold execRetrieve
  split
  · trivial
  · split
    · exact harmless_next rfl
    · split
      · exact harmless_next rfl
      · split <;> exact harmless_next rfl

theorem issueProbe_harmless (p : Probe) (start : State → State) (s : State)
    (hstart : ∀ t, (start t).statInvariant = t.statInvariant) : Harmless s.statInvariant (issueProbe p start s) := by
  unfold issueProbe
  split
  · exact harmless_next (hstart _)
  · exact harmless_next rfl

@[simp] theorem State.raiseCollision_statInvariant (s : State) (o : FrameDrive) :
    (s.raiseCollision o).statInvariant = s.statInvariant := by
  unfold State.raiseCollision
  split <;> rfl

/-- An operation of ARB's is harmless under the invariant: ARB_SUB is defined, and ARB has no fault to stop with. -/
theorem arbOperation_harmless {s : State} (h : s.safe) (code : BitVec 3) {op : State → State → State}
    (hop : ∀ s0 t, (op s0 t).statInvariant = t.statInvariant) : Harmless s.statInvariant (arbOperation code op s) := by
  have hfault := arbFault_of_safe h
  obtain ⟨-, -, -, ⟨-, hsub, -⟩, -, -⟩ := h
  simp only [arbOperation, hfault, arbRun_defined op s s hsub]
  split
  · exact harmless_next (hop s s)
  · exact harmless_next rfl

/-- Outside ARB no operation has a fault, in any state, and none raises STAT_INVARIANT. -/
theorem exec_harmless_of_kindOf_ne_arb {i : Instr} (hk : kindOf i ≠ .arb) (s : State) :
    Harmless s.statInvariant (exec i s) := by
  cases i with
  | arbWaiting | arbListening | arbStarting | arbSending | arbReading => exact absurd rfl hk
  | decodeHeader | serialize | deserialize | validate | readStatus | inferGrade | frameStructured | frameGeneric =>
    exact harmless_next rfl
  | sampleBit | sampleByte => exact harmless_next (by simp)
  | driveBit | startFrame | sendByte | sendFrame => exact harmless_next (by simp)
  | symSync | symBitsync | symBit0 | symBit1 | frameOnLine => exact harmless_next (by simp [State.putOnLine])
  | rxFrame => exact execRxFrame_harmless s
  | init m => exact execInit_harmless m s
  | submit b w => exact execSubmit_harmless b w s
  | retrieve => exact execRetrieve_harmless s
  | diagElec | diagTiming | diagYield => exact issueProbe_harmless _ _ s fun _ => rfl

theorem exec_harmless {s : State} (h : s.safe) (i : Instr) : Harmless s.statInvariant (exec i s) := by
  cases i with
  | arbWaiting => exact arbOperation_harmless h _ arbWaiting_statInvariant
  | arbListening => exact arbOperation_harmless h _ arbListening_statInvariant
  | arbStarting => exact arbOperation_harmless h _ arbStarting_statInvariant
  | arbSending => exact arbOperation_harmless h _ arbSending_statInvariant
  | arbReading => exact arbOperation_harmless h _ arbReading_statInvariant
  | _ => exact exec_harmless_of_kindOf_ne_arb (by simp [kindOf, issuerOf]) s

/-! ### Calls of the block -/

/-- A run that a reset cuts ends in a reset state, in which STAT_INVARIANT is 0. -/
theorem cutByReset_harmless (s s1 : State) : Harmless s1.statInvariant (.next (cutByReset s s1)) := by
  simp only [cutByReset]
  split
  · exact harmless_next rfl
  · exact fun flagged => absurd flagged Bool.false_ne_true

theorem blockOp_harmless {s : State} (h : s.safe) (i : Instr) : Harmless s.statInvariant (blockOp i s) := by
  unfold blockOp
  split <;> refine (exec_harmless h i).andThen fun t => ?_
  · exact cutByReset_harmless s t
  · split <;> exact clockOut_harmless h _
  · exact clockOut_harmless h t

theorem blockCall_harmless {s : State} (h : s.safe) (c : Call) : Harmless s.statInvariant (blockCall c s) := by
  unfold blockCall
  split
  · exact blockOp_harmless h _
  · exact clockOut_harmless h (s.badOp c)

/-! ### Calls of HOST -/

theorem badOps_statInvariant (cs : List Call) (s : State) : (badOps cs s).statInvariant = s.statInvariant := by
  unfold badOps
  induction cs generalizing s with
  | nil => rfl
  | cons c cs ih =>
    rw [List.foldl_cons, ih]
    split <;> rfl

theorem issuerOf_of_hostOp {c : Call} {i : Instr} (h : hostOp c = some i) : issuerOf i = .host := by
  unfold hostOp at h
  split at h
  · split at h
    next hissuer =>
      cases h
      exact hissuer
    next => cases h
  · cases h

/-- ARB's operations are the block's own (30_encoding.md R120). -/
theorem kindOf_ne_arb_of_host {i : Instr} (h : issuerOf i = .host) : kindOf i ≠ .arb := by
  cases i with
  | arbWaiting | arbListening | arbStarting | arbSending | arbReading => cases h
  | _ => simp [kindOf, issuerOf]

theorem execAll_harmless {is : List Instr} (h : ∀ i ∈ is, kindOf i ≠ .arb) (s : State) :
    Harmless s.statInvariant (execAll is s) := by
  induction is generalizing s with
  | nil => exact harmless_next rfl
  | cons i r ih =>
    obtain ⟨hi, hr⟩ := List.forall_mem_cons.mp h
    exact (exec_harmless_of_kindOf_ne_arb hi s).andThen fun t => ih hr t

theorem mem_of_mem_inOrder {i : Instr} {is : List Instr} (h : i ∈ inOrder is) : i ∈ is := by
  simp only [inOrder, ofClass, List.mem_append, List.mem_filter] at h
  rcases h with ⟨hi, -⟩ | ⟨hi, -⟩ | ⟨hi, -⟩ <;> exact hi

theorem hostCalls_harmless {s : State} (h : s.safe) (cs : List Call) : Harmless s.statInvariant (hostCalls cs s) := by
  have hkind : ∀ i ∈ inOrder (cs.filterMap hostOp), kindOf i ≠ .arb := by
    intro i hi
    obtain ⟨c, -, hc⟩ := List.mem_filterMap.mp (mem_of_mem_inOrder hi)
    exact kindOf_ne_arb_of_host (issuerOf_of_hostOp hc)
  simp only [hostCalls]
  split
  · trivial
  · rw [← badOps_statInvariant cs s]
    exact (execAll_harmless hkind _).andThen fun t => clockOut_harmless h t

/-! ### The statement -/

theorem runFetch_harmless {s : State} (h : s.safe) (f : Fetch) : Harmless s.statInvariant (runFetch f s) := by
  cases f with
  | idle => exact clockOut_harmless h s
  | block c r => exact blockCall_harmless (s := { s with calls := r }) h c
  | host cs r => exact hostCalls_harmless (s := { s with calls := r }) h cs

theorem step_harmless {s : State} (h : s.safe) : Harmless s.statInvariant (step s) := by
  unfold step
  split
  · exact fun flagged => absurd flagged Bool.false_ne_true
  · exact runFetch_harmless h s.fetch

/-- Settles O8: a step of a safe state is harmless, part by part. -/
theorem safeStatesNeverStopOrFlag : Obligations.SafeStatesNeverStopOrFlag := by
  refine ⟨fun s f h => (step_harmless h).ne_fault f, fun s t h hstep flagged => ?_⟩
  have hnext : Harmless s.statInvariant (.next t) := hstep ▸ step_harmless h
  exact hnext flagged

end Sys2Proof.Machine
end

section
/-! SUPPORT. Obligations O1 and O2: decoding what `encode` writes. Each field of an operand record is read back by the
reader the decoder uses for it; an operation's record is its fields in order. -/

namespace Sys2Proof

/-! ### Fields of a record -/

@[simp] theorem byteAt_cons_zero (b : Byte) (r : List Byte) : byteAt (b :: r) 0 = b := rfl

@[simp] theorem byteAt_cons_succ (b : Byte) (r : List Byte) (k : Nat) : byteAt (b :: r) (k + 1) = byteAt r k := rfl

/-- A sequence presented in full is read as it stands, whatever comes after it. -/
@[simp] theorem takeZ_append (b rest : List Byte) : takeZ b.length (b ++ rest) = b := by
  induction b with
  | nil => rfl
  | cons x b ih => exact congrArg (x :: ·) ih

theorem lengthOf_put {n : Nat} (h : n < 65536) :
    lengthOf (BitVec.ofNat 8 (n % 256)) (BitVec.ofNat 8 (n / 256)) = n := by
  simp only [lengthOf, BitVec.toNat_ofNat]
  omega

theorem sequence16_put16 {b : List Byte} (h : b.length < 65536) (rest : List Byte) :
    sequence16 (put16 b ++ rest) = b := by
  simp [sequence16, put16, lengthOf_put h]

theorem sequence8_put8 {b : List Byte} (h : b.length < 256) (rest : List Byte) : sequence8 (put8 b ++ rest) = b := by
  simp [sequence8, put8, Nat.mod_eq_of_lt h]

/-- The four bytes of a count, put together again. -/
theorem countOf_extract (n : Count) :
    countOf (n.extractLsb' 0 8) (n.extractLsb' 8 8) (n.extractLsb' 16 8) (n.extractLsb' 24 8) = n := by
  rw [countOf, BitVec.extractLsb'_append_extractLsb'_eq_extractLsb' (show 24 = 16 + 8 from rfl),
    BitVec.extractLsb'_append_extractLsb'_eq_extractLsb' (show 16 = 8 + 8 from rfl),
    BitVec.extractLsb'_append_extractLsb'_eq_extractLsb' (show 8 = 0 + 8 from rfl)]
  exact BitVec.extractLsb'_eq_self

/-- The four fields of INIT's mode byte (10_state.md R24). -/
theorem putMode_fields (addr : Byte) (ctrl rdpol : Bool) (grade : BitVec 2) :
    (putMode ⟨addr, ctrl, rdpol, grade⟩).extractLsb' 4 4 = 0
    ∧ (putMode ⟨addr, ctrl, rdpol, grade⟩).getLsbD 0 = ctrl
    ∧ (putMode ⟨addr, ctrl, rdpol, grade⟩).getLsbD 1 = rdpol
    ∧ (putMode ⟨addr, ctrl, rdpol, grade⟩).extractLsb' 2 2 = grade := by
  simp only [putMode]
  revert ctrl rdpol grade
  decide

/-! ### Operand records -/

theorem decodeSerialize_putFrame {f : Frame} (h : f.wellFormed = true) (rest : List Byte) :
    decodeSerialize (putFrame f ++ rest) = .ok (.serialize f) := by
  cases f with
  | structured f => rfl
  | generic len body =>
    simp only [Frame.wellFormed, Bool.and_eq_true, decide_eq_true_eq] at h
    have hbody : body.length < 65536 := by omega
    exact congrArg (Except.ok ∘ Instr.serialize ∘ Frame.generic len) (sequence16_put16 hbody rest)

theorem decodeInit_record (m : BusMode) (rest : List Byte) : decodeInit (m.addr :: putMode m :: rest) = .ok (.init m) := by
  obtain ⟨addr, ctrl, rdpol, grade⟩ := m
  obtain ⟨hreserved, hctrl, hrdpol, hgrade⟩ := putMode_fields addr ctrl rdpol grade
  simp only [decodeInit, byteAt_cons_zero, byteAt_cons_succ, hreserved, hctrl, hrdpol, hgrade, if_true]

theorem decodeSubmit_record {b : List Byte} (h : b.length < 65536) (w : Wait) (rest : List Byte) :
    decodeSubmit (putWait w ++ put16 b ++ rest) = .ok (.submit b w) := by
  have hb := sequence16_put16 h rest
  cases w with
  | cycles n => simp [decodeSubmit, putWait, putCount, countOf_extract, hb]
  | forever => simp [decodeSubmit, putWait, putCount, countOf, hb]

theorem decodeFrameGeneric_record {len : Byte} {body : List Byte}
    (h : (Frame.generic len body).wellFormed = true) (rest : List Byte) :
    decodeFrameGeneric (len :: body ++ rest) = .ok (.frameGeneric len body) := by
  simp only [Frame.wellFormed, Bool.and_eq_true, decide_eq_true_eq] at h
  obtain ⟨hlen, hbody⟩ := h
  have hcount : len.toNat - 1 = body.length := by omega
  simp only [decodeFrameGeneric, List.cons_append, byteAt_cons_zero, if_neg hlen, List.drop_one, List.tail_cons, hcount,
    takeZ_append]

/-- A frame is no longer than its tag byte can say (30_encoding.md R109). -/
theorem length_lt_of_isFrameBytes {b : List Byte} (h : isFrameBytes b = true) : b.length < 256 := by
  cases b with
  | nil => cases h
  | cons t r =>
    have hlen : (t :: r).length = Machine.frameLen t := of_decide_eq_true h
    have hle : Machine.frameLen t ≤ 255 := Machine.frameLen_le t
    omega

/-! ### Operations -/

theorem decode_encode (i : Instr) (rest : List Byte) (h : i.wellFormed = true) : decode (encode i ++ rest) = .ok i := by
  cases i with
  | sampleBit | sampleByte | rxFrame | startFrame | retrieve | readStatus | diagElec | diagTiming | diagYield => rfl
  | arbWaiting | arbListening | arbStarting | arbSending | arbReading => rfl
  | symSync | symBitsync | symBit0 | symBit1 => rfl
  | decodeHeader | sendByte | frameStructured => rfl
  | driveBit v => cases v <;> rfl
  | serialize f => exact decodeSerialize_putFrame h rest
  | deserialize b =>
    simp only [Instr.wellFormed, Bool.and_eq_true, decide_eq_true_eq] at h
    have hb : b.length < 65536 := Nat.lt_of_le_of_lt h.2 (by decide)
    exact congrArg (Except.ok ∘ Instr.deserialize) (sequence16_put16 hb rest)
  | validate b => exact congrArg (Except.ok ∘ Instr.validate) (sequence16_put16 (of_decide_eq_true h) rest)
  | sendFrame b =>
    exact congrArg (Except.ok ∘ Instr.sendFrame) (sequence8_put8 (length_lt_of_isFrameBytes h) rest)
  | frameOnLine b =>
    exact congrArg (Except.ok ∘ Instr.frameOnLine) (sequence8_put8 (length_lt_of_isFrameBytes h) rest)
  | init m => exact decodeInit_record m rest
  | submit b w => exact decodeSubmit_record (of_decide_eq_true h) w rest
  | inferGrade w => exact congrArg (Except.ok ∘ Instr.inferGrade) (countOf_extract w)
  | frameGeneric len body => exact decodeFrameGeneric_record h rest

/-! ### The statements -/

/-- Settles O1: each operation's record, field by field. -/
theorem decodeInvertsEncode : Obligations.DecodeInvertsEncode := decode_encode

/-- Settles O2: the bytes of each word, looked up in the id table. -/
theorem wordsDecodeToTheirOperations : Obligations.WordsDecodeToTheirOperations :=
  ⟨rfl, rfl, rfl, rfl, rfl, rfl, rfl, rfl, rfl, rfl, rfl, rfl⟩

end Sys2Proof
end

section
/-! SUPPORT. What an operation that runs on its own leaves of the state: only time passes while it reads the line, and only
DRV_LOW is written beside while it drives a waveform; and what it drove in each of its cycles. -/

namespace Sys2Proof.Machine

/-! ### Storage follows from the registers -/

theorem onlyTimePassed_of_eq {s t : State} (h : t = { s with
    linePrev := t.linePrev
    cycle := t.cycle
    inputs := t.inputs
    drvTrace := t.drvTrace
    replies := t.replies }) : OnlyTimePassed s t :=
  ⟨h, fun b i => by rw [h]; rfl⟩

theorem onlyLineDriven_of_eq {s t : State} (h : t = { s with
    drvLow := false
    linePrev := t.linePrev
    cycle := t.cycle
    inputs := t.inputs
    drvTrace := t.drvTrace
    replies := t.replies }) : OnlyLineDriven s t :=
  ⟨h, fun b i => by rw [h]; rfl⟩

/-! ### The cycles of a waveform -/

theorem OnlyTimePassed.trans {s t u : State} (h : OnlyTimePassed s t) (k : OnlyTimePassed t u) : OnlyTimePassed s u := by
  refine onlyTimePassed_of_eq ?_
  have e := k.1
  rw [h.1] at e
  exact e

theorem State.passWave_onlyTimePassed (s : State) (w : List Bool) : OnlyTimePassed s (s.passWave w) := by
  induction w generalizing s with
  | nil => exact onlyTimePassed_of_eq rfl
  | cons d w ih => exact OnlyTimePassed.trans (onlyTimePassed_of_eq rfl) (ih (s.passCycle d))

/-- Reading the line and replying lets time pass. -/
theorem State.passIdle_reply_onlyTimePassed (s : State) (n : Nat) (op : Byte) (r : Result) :
    OnlyTimePassed s ((s.passIdle n).reply op r) :=
  (s.passWave_onlyTimePassed _).trans (onlyTimePassed_of_eq rfl)

/-- Driving a waveform and replying lets time pass and writes DRV_LOW. -/
theorem State.driveWave_reply_onlyLineDriven (s : State) (w : List Bool) (op : Byte) (r : Result) :
    OnlyLineDriven s ((s.driveWave w).reply op r) := by
  have h := congrArg (fun t : State => { t with drvLow := false }.reply op r) (s.passWave_onlyTimePassed w).1
  exact onlyLineDriven_of_eq h

/-- What an operation drove is its waveform, value by value. -/
theorem State.drivenAt_driveWave_reply (s : State) (w : List Bool) (op : Byte) (r : Result) (k : Nat) :
    drivenAt s ((s.driveWave w).reply op r) k = w[k]? := by
  simp [drivenAt]

end Sys2Proof.Machine
end

section
/-! SUPPORT. Obligation O13: SAMPLE_BYTE over cells. Each cell within its bounds makes one bit of the byte; a phase that never
ends makes the fault of the SAMPLE_BIT that meets it. -/

namespace Sys2Proof.Machine

/-! ### Traces made of runs -/

/-- The cycles that runs take. -/
def runCycles (rs : List (Bool × Nat)) : Nat := (rs.map Prod.snd).sum

theorem follows_append (tr : Nat → Bool) (t : Nat) (as bs : List (Bool × Nat)) :
    follows tr t (as ++ bs) ↔ follows tr t as ∧ follows tr (t + runCycles as) bs := by
  induction as generalizing t with
  | nil => simp [follows, runCycles]
  | cons a as ih => simp [follows, runCycles, ih, and_assoc, Nat.add_assoc]

/-- The runs of cells as SAMPLE_BIT meets them: the low phase before each high phase (40_bit_codec.md R141). -/
abbrev sampleRuns (cs : List (Nat × Nat)) : List (Bool × Nat) := cs.flatMap (fun c => [(false, c.1), (true, c.2)])

theorem runCycles_sampleRuns (cs : List (Nat × Nat)) : runCycles (sampleRuns cs) = cellCycles cs := by
  induction cs with
  | nil => rfl
  | cons c cs ih =>
    simp only [runCycles, sampleRuns, cellCycles] at ih ⊢
    simp [ih, Nat.add_assoc]

/-- A cell whose phases SAMPLE_BIT does not time out on (40_bit_codec.md R144, R145). -/
abbrev cellWithin (p : Timing) (c : Nat × Nat) : Prop := c.1 ≤ p.lowTmo ∧ 1 ≤ c.2 ∧ c.2 ≤ p.highTmo

/-- Where every cell has a low phase, cells begin with a low cycle, and so does what comes after none. -/
theorem low_of_follows_sampleRuns {tr : Nat → Bool} {t : Nat} {cs : List (Nat × Nat)} (hlow : ∀ c ∈ cs, 1 ≤ c.1)
    (hf : follows tr t (sampleRuns cs)) (hend : tr (t + cellCycles cs) = false) : tr t = false := by
  cases cs with
  | nil => exact hend
  | cons c cs => exact hf.1 0 (hlow c List.mem_cons_self)

/-! ### Bits of a byte -/

/-- Cells within their bounds, the line low after them, give the next bits of the byte, each by its own width
(40_bit_codec.md R146): the bits above and below theirs are as before. -/
theorem sampleBitsAt_cells {tr : Nat → Bool} {p : Timing} {k t : Nat} {cs : List (Nat × Nat)} (b : Byte)
    (hk : cs.length + k ≤ 8) (hc : ∀ c ∈ cs, cellWithin p c) (hlow : ∀ c ∈ cs.tail, 1 ≤ c.1)
    (hf : follows tr t (sampleRuns cs)) (hend : cs ≠ [] → tr (t + cellCycles cs) = false) :
    ∃ b', sampleBitsAt tr p (cs.length + k) t b = sampleBitsAt tr p k (t + cellCycles cs) b'
      ∧ (∀ i, (h : i < cs.length) → b'.getLsbD (cs.length + k - 1 - i) = p.classify (cs[i]).2)
      ∧ ∀ j, cs.length + k ≤ j → b'.getLsbD j = b.getLsbD j := by
  induction cs generalizing t b with
  | nil => exact ⟨b, by simp [cellCycles], by simp, fun j _ => rfl⟩
  | cons c cs ih =>
    obtain ⟨⟨hlowTmo, hpos, hhighTmo⟩, hrest⟩ := List.forall_mem_cons.mp hc
    obtain ⟨hlo, hhi, hf⟩ := hf
    have hcycles : t + cellCycles (c :: cs) = t + c.1 + c.2 + cellCycles cs := by simp [cellCycles, Nat.add_assoc]
    have hfall : tr (t + c.1 + c.2) = false := low_of_follows_sampleRuns hlow hf (hcycles ▸ hend (by simp))
    have hbit := sampleBitAt_bit tr p hlowTmo hlo hpos hhighTmo hhi hfall
    rw [List.length_cons] at hk
    obtain ⟨b', hs, hbits, habove⟩ := ih (setBit b (cs.length + k) (p.classify c.2)) (by omega) hrest
      (fun d hd => hlow d (List.mem_of_mem_tail hd)) hf (fun _ => hcycles ▸ hend (by simp))
    refine ⟨b', ?_, ?_, ?_⟩
    · rw [List.length_cons, Nat.add_right_comm, sampleBitsAt, hbit, hcycles]
      exact hs
    · intro i hi
      cases i with
      | zero =>
        have h := habove (cs.length + k) (by omega)
        rw [setBit_getLsbD _ _ _ _ (by omega), if_pos rfl] at h
        simpa [Nat.add_right_comm] using h
      | succ i =>
        have h := hbits i (by simpa using hi)
        rwa [show (c :: cs).length + k - 1 - (i + 1) = cs.length + k - 1 - i by simp; omega]
    · intro j hj
      rw [List.length_cons] at hj
      rw [habove j (by omega), setBit_getLsbD _ _ _ _ (by omega), if_neg (by omega)]

/-- The first SAMPLE_BIT that faults ends the byte (40_bit_codec.md R146). -/
theorem sampleBitsAt_fault {tr : Nat → Bool} {p : Timing} {t : Nat} {o : BitSample} {f : BitFault}
    (ho : sampleBitAt tr p t = o) (hr : o.r = .fault f) (k : Nat) (b : Byte) :
    sampleBitsAt tr p (k + 1) t b = ⟨.fault f, o.tEnd⟩ := by
  simp only [sampleBitsAt, ho, hr]

/-- A fault after fewer than eight cells is the answer of SAMPLE_BYTE. -/
theorem sampleByteAt_fault {tr : Nat → Bool} {p : Timing} {t : Nat} {cs : List (Nat × Nat)} {o : BitSample}
    {f : BitFault} (hlen : cs.length < 8) (hc : ∀ c ∈ cs, cellWithin p c) (hlow : ∀ c ∈ cs.tail, 1 ≤ c.1)
    (hf : follows tr t (sampleRuns cs)) (hend : cs ≠ [] → tr (t + cellCycles cs) = false)
    (ho : sampleBitAt tr p (t + cellCycles cs) = o) (hr : o.r = .fault f) :
    sampleByteAt tr p t = ⟨.fault f, o.tEnd⟩ := by
  obtain ⟨k, hk⟩ : ∃ k, cs.length + (k + 1) = 8 := ⟨7 - cs.length, by omega⟩
  obtain ⟨b, hs, -, -⟩ := sampleBitsAt_cells (k := k + 1) 0 (by omega) hc hlow hf hend
  rw [hk] at hs
  exact hs.trans (sampleBitsAt_fault ho hr k b)

/-! ### The operation -/

/-- SAMPLE_BYTE ends where its samples end, with their result, and only time passes. -/
theorem exec_sampleByte (s : State) : ∃ t, exec .sampleByte s = .next t
    ∧ t.cycle = (sampleByteAt s.lineAt s.timing s.cycle).tEnd
    ∧ t.replies = ⟨t.cycle, 0x02, .sampledByte (sampleByteAt s.lineAt s.timing s.cycle).r t.cycle⟩ :: s.replies
    ∧ OnlyTimePassed s t := by
  have hle := sampleByteAt_le s.lineAt s.timing s.cycle
  have hcycle : s.cycle + ((sampleByteAt s.lineAt s.timing s.cycle).tEnd - s.cycle)
      = (sampleByteAt s.lineAt s.timing s.cycle).tEnd := by omega
  refine ⟨_, rfl, ?_, ?_, s.passIdle_reply_onlyTimePassed _ _ _⟩ <;> simp [hcycle]

/-- The answer of SAMPLE_BYTE when its samples are known. -/
theorem exec_sampleByte_of_eq {s : State} {o : ByteSample} (h : sampleByteAt s.lineAt s.timing s.cycle = o) :
    ∃ t, exec .sampleByte s = .next t ∧ t.cycle = o.tEnd
      ∧ t.replies = ⟨o.tEnd, 0x02, .sampledByte o.r o.tEnd⟩ :: s.replies ∧ OnlyTimePassed s t := by
  obtain ⟨t, hexec, hcycle, hreplies, honly⟩ := exec_sampleByte s
  rw [h] at hcycle hreplies
  exact ⟨t, hexec, hcycle, hcycle ▸ hreplies, honly⟩

theorem exec_sampleByte_of_cells {s : State} {cs : List (Nat × Nat)} (hlen : cs.length = 8)
    (hc : ∀ c ∈ cs, cellWithin s.timing c) (hlow : ∀ c ∈ cs.tail, 1 ≤ c.1)
    (hf : follows s.lineAt s.cycle (sampleRuns cs ++ [(false, 1)])) :
    ∃ t b, exec .sampleByte s = .next t ∧ t.cycle = s.cycle + cellCycles cs
      ∧ t.replies = ⟨t.cycle, 0x02, .sampledByte (.byte b) t.cycle⟩ :: s.replies
      ∧ (∀ i, (h : i < cs.length) → b.getLsbD (7 - i) = s.timing.classify (cs[i]).2)
      ∧ OnlyTimePassed s t := by
  rw [follows_append, runCycles_sampleRuns] at hf
  obtain ⟨hf, hlast, -⟩ := hf
  obtain ⟨b, hs, hbits, -⟩ := sampleBitsAt_cells (k := 0) 0 (by omega) hc hlow hf fun _ => hlast 0 Nat.one_pos
  rw [hlen] at hs
  obtain ⟨t, hexec, hcycle, hreplies, honly⟩ := exec_sampleByte_of_eq hs
  exact ⟨t, b, hexec, hcycle, hcycle ▸ hreplies, fun i hi => by simpa [hlen] using hbits i hi, honly⟩

/-- Where SAMPLE_BIT from the same start faults, so does SAMPLE_BYTE, in the same cycle. -/
theorem sampleByteAt_of_sampleBit {s u : State} {f : BitFault} {h e : Nat} (hexec : exec .sampleBit s = .next u)
    (hreply : u.replies = ⟨e, 0x01, .sampledBit (.fault f) h e⟩ :: s.replies) :
    sampleByteAt s.lineAt s.timing s.cycle = ⟨.fault f, e⟩ := by
  cases hexec
  simp only [State.reply_replies, State.passIdle_replies, List.cons.injEq, Reply.mk.injEq, Result.sampledBit.injEq,
    and_true] at hreply
  obtain ⟨-, -, hr, -, he⟩ := hreply
  rw [sampleByteAt, sampleBitsAt_fault rfl hr, he]

/-! ### The statement -/

/-- Settles O13: the byte from eight cells, the fault after fewer, and the fault of the first bit. -/
theorem sampleByteAssemblesEightBits : Obligations.SampleByteAssemblesEightBits := by
  refine ⟨fun s cs hlen hc hlow hf => exec_sampleByte_of_cells hlen hc hlow hf, ?_, fun s => ?_⟩
  · intro s cs l hlen hc hlow runs faults
    refine ⟨fun hf => ?low, fun hl hpos hf => ?high⟩ <;>
      obtain ⟨hf, hstuck⟩ := (follows_append ..).mp hf <;>
      rw [runCycles_sampleRuns] at hstuck
    case low =>
      have ho := sampleBitAt_low s.lineAt s.timing hstuck.1
      exact exec_sampleByte_of_eq
        (sampleByteAt_fault hlen hc hlow hf (fun _ => hstuck.1 0 (Nat.succ_pos _)) ho rfl)
    case high =>
      have ho := sampleBitAt_high s.lineAt s.timing hl hstuck.1 hstuck.2.1
      exact exec_sampleByte_of_eq (sampleByteAt_fault hlen hc hlow hf (fun hne => hstuck.1 0 (hpos hne)) ho rfl)
  · obtain ⟨t, hexec, hcycle, hreplies, honly⟩ := exec_sampleByte s
    refine ⟨t, _, hexec, hreplies, honly, fun u f h e hu hreply => ?_⟩
    rw [hcycle, sampleByteAt_of_sampleBit hu hreply]
    exact ⟨rfl, rfl⟩

end Sys2Proof.Machine
end

section
/-! SUPPORT. Obligations O14, O30 and O31: operations that drive a waveform. Each is its waveform, and the waveform is runs of
released and of low cycles. -/

namespace Sys2Proof.Machine

/-! ### Waveforms of two levels -/

/-- Released for `m` cycles, then low for `n`. -/
abbrev highLow (m n : Nat) : List Bool := List.replicate m false ++ List.replicate n true

theorem highLow_high {m k : Nat} (n : Nat) (h : k < m) : (highLow m n)[k]? = some false := by
  rw [List.getElem?_append_left (by simpa using h), List.getElem?_replicate, if_pos h]

theorem highLow_low {m n k : Nat} (hm : m ≤ k) (hk : k < m + n) : (highLow m n)[k]? = some true := by
  rw [List.getElem?_append_right (by simpa using hm), List.getElem?_replicate, if_pos (by simp; omega)]

theorem cellHigh_eq (s : State) (v : Bool) :
    s.timing.cellHigh v = if v then 2 * s.tpDelta.toNat else s.tpDelta.toNat := rfl

theorem two_mul_bitSync (s : State) : 2 * s.timing.bitSync = 16 * s.tpDelta.toNat := by
  simp only [Timing.bitSync, Config.bitSyncUnits, State.timing]
  omega

/-! ### DRIVE_BIT -/

/-- A low line at check 1: nothing is pulled low (40_bit_codec.md R148). -/
theorem driveBitAt_check1 {tr : Nat → Bool} {p : Timing} {v : Bool} {t : Nat}
    (h : tr (t + p.cellHigh v - 1) = false) :
    driveBitAt tr p v t = ⟨some .afterHigh, t + p.cellHigh v, List.replicate (p.cellHigh v) false⟩ := by
  simp [driveBitAt, h]

/-- A high line at check 1: the whole cell, and check 2 after it (40_bit_codec.md R147, R149). -/
theorem driveBitAt_cell {tr : Nat → Bool} {p : Timing} {v : Bool} {t : Nat}
    (h : tr (t + p.cellHigh v - 1) = true) :
    driveBitAt tr p v t = ⟨if tr (t + p.cellHigh v + Config.guardCyc) = false then some .afterGuard else none,
      t + p.cellHigh v + Config.guardCyc, cellWave p v⟩ := by
  simp [driveBitAt, h]

/-- The collision flag of a cell is its check 2. -/
theorem isSome_ite_false {α : Type} (level : Bool) (a : α) :
    (if level = false then some a else none).isSome = !level := by
  cases level <;> rfl

/-- Settles O14: by check 1, the whole cell or its high phase alone. -/
theorem driveBitMakesOneCell : Obligations.DriveBitMakesOneCell := by
  intro s v H hH
  rw [← cellHigh_eq] at hH
  subst hH
  refine ⟨_, rfl, s.driveWave_reply_onlyLineDriven _ _ _, fun h1 => ?cell, fun h1 => ?collision⟩
  case cell =>
    rw [driveBitAt_cell h1]
    refine ⟨?_, fun k hk => ?_, fun k hm hk => ?_, ?_⟩
    · simp [Nat.add_assoc]
    · exact (s.drivenAt_driveWave_reply _ _ _ k).trans (highLow_high _ hk)
    · exact (s.drivenAt_driveWave_reply _ _ _ k).trans (highLow_low hm hk)
    · simp [isSome_ite_false, Nat.add_assoc]
  case collision =>
    rw [driveBitAt_check1 h1]
    refine ⟨by simp, fun k hk => ?_, by simp⟩
    rw [State.drivenAt_driveWave_reply, List.getElem?_replicate, if_pos hk]

/-! ### Line symbols -/

/-- A symbol on the line ends after its waveform, with DRV_LOW its values. -/
theorem State.putOnLine_drives (s : State) (tag : Byte) (w : List Bool) :
    OnlyLineDriven s (s.putOnLine tag w) ∧ (s.putOnLine tag w).cycle = s.cycle + w.length
      ∧ ∀ k, drivenAt s (s.putOnLine tag w) k = w[k]? :=
  ⟨s.driveWave_reply_onlyLineDriven _ _ _, by simp [State.putOnLine], s.drivenAt_driveWave_reply _ _ _⟩

/-- A symbol that is released and then low. -/
theorem State.putOnLine_highLow (s : State) (tag : Byte) (m n : Nat) :
    OnlyLineDriven s (s.putOnLine tag (highLow m n)) ∧ (s.putOnLine tag (highLow m n)).cycle = s.cycle + m + n
      ∧ (∀ k, k < m → drivenAt s (s.putOnLine tag (highLow m n)) k = some false)
      ∧ (∀ k, m ≤ k → k < m + n → drivenAt s (s.putOnLine tag (highLow m n)) k = some true) := by
  obtain ⟨honly, hcycle, hdriven⟩ := s.putOnLine_drives tag (highLow m n)
  refine ⟨honly, by simp [hcycle, Nat.add_assoc], fun k hk => ?_, fun k hm hk => ?_⟩
  · exact (hdriven k).trans (highLow_high n hk)
  · exact (hdriven k).trans (highLow_low hm hk)

/-- Settles O30: SYNC is low throughout, the other symbols are released and then low. -/
theorem symbolsDriveTheirWaveforms : Obligations.SymbolsDriveTheirWaveforms := by
  rintro s SL D rfl rfl
  refine ⟨⟨_, rfl, ?sync⟩, ⟨_, rfl, ?bitsync⟩, ⟨_, rfl, s.putOnLine_highLow ..⟩, ⟨_, rfl, s.putOnLine_highLow ..⟩⟩
  case sync =>
    obtain ⟨honly, hcycle, hdriven⟩ := s.putOnLine_drives 0x81 (syncWave s.syncLowCyc)
    refine ⟨honly, by rw [hcycle, syncWave_length]; rfl, fun k hk => ?_⟩
    rw [hdriven k, syncWave, List.getElem?_replicate]
    exact if_pos hk
  case bitsync =>
    obtain ⟨honly, hcycle, hhigh, hlow⟩ := s.putOnLine_highLow 0x82 s.timing.bitSync s.timing.bitSync
    rw [Nat.add_assoc, ← Nat.two_mul, two_mul_bitSync] at hcycle
    rw [← Nat.two_mul, two_mul_bitSync] at hlow
    exact ⟨honly, hcycle, hhigh, hlow⟩

/-! ### A frame on the line -/

/-- The cycles of the last `k` cells of a byte: one unit and a guard each, and one unit more for each 1. -/
theorem bitsWave_length (p : Timing) (b : Byte) (k : Nat) :
    (bitsWave p b k).length = k * (p.delta + Config.guardCyc) + onesIn b k * p.delta := by
  induction k with
  | zero => simp [bitsWave, onesIn]
  | succ k ih =>
    rw [bitsWave, List.length_append, cellWave_length, ih, onesIn]
    cases b.getLsbD k
    · simp only [Timing.cellHigh, Bool.false_eq_true, if_false, Nat.zero_add, Nat.add_mul, Nat.one_mul]
      omega
    · simp only [Timing.cellHigh, if_true, Nat.add_mul, Nat.one_mul]
      omega

theorem onesIn_le (b : Byte) (k : Nat) : onesIn b k ≤ k := by
  induction k with
  | zero => exact Nat.le_refl 0
  | succ k ih =>
    rw [onesIn]
    split <;> omega

theorem ones_le (b : List Byte) : ones b ≤ 8 * b.length := by
  induction b with
  | nil => exact Nat.le_refl 0
  | cons x b ih =>
    have hx := onesIn_le x 8
    simp only [ones, List.map_cons, List.sum_cons, List.length_cons] at ih ⊢
    omega

theorem bytesWave_length_eq (p : Timing) (b : List Byte) :
    (bytesWave p b).length = 8 * b.length * (p.delta + Config.guardCyc) + ones b * p.delta := by
  induction b with
  | nil => simp [bytesWave, ones]
  | cons x b ih =>
    rw [bytesWave, List.length_append, bitsWave_length, ih]
    simp only [ones, List.map_cons, List.sum_cons, List.length_cons, Nat.add_mul, Nat.mul_add, Nat.mul_one]
    omega

/-- The cells of a frame take the cycles of 30_encoding.md R105. -/
theorem bytesWave_length (p : Timing) (b : List Byte) : (bytesWave p b).length = cellsLength p b := by
  obtain ⟨z, hz⟩ := Nat.exists_eq_add_of_le (ones_le b)
  have hzeros : zeros b = z := by rw [zeros, hz]; omega
  rw [bytesWave_length_eq, cellsLength, hzeros, hz]
  simp only [Nat.add_mul, Nat.mul_add, Nat.mul_left_comm _ 2]
  omega

theorem frameWave_length (p : Timing) (n : Nat) (b : List Byte) :
    (frameWave p n b).length = n + 2 * p.bitSync + cellsLength p b := by
  rw [frameWave, List.length_append, startWave_length, bytesWave_length]

/-! ### The transmission on a free line -/

section
variable {tr : Nat → Bool} (free : ∀ c, tr c = true)
include free

theorem sendBitsAt_free (p : Timing) (b : Byte) (k t : Nat) :
    sendBitsAt tr p b k t = ⟨none, t + (bitsWave p b k).length, bitsWave p b k⟩ := by
  induction k generalizing t with
  | zero => rfl
  | succ k ih =>
    simp [sendBitsAt, driveBitAt_free tr p _ t (free _) (free _), ih, bitsWave, Nat.add_assoc]

/-- With no check low SEND_FRAME drives every cell (43_transmission.md R204). -/
theorem sendBytesAt_free (p : Timing) (b : List Byte) (j t : Nat) :
    sendBytesAt tr p b j t = ⟨none, t + (bytesWave p b).length, bytesWave p b⟩ := by
  induction b generalizing j t with
  | nil => rfl
  | cons x b ih => simp [sendBytesAt, sendByteAt, sendBitsAt_free free, ih, bytesWave, Nat.add_assoc]

end

/-- A line that nobody else holds low from the present cycle on is free for who drives after a waveform too. -/
theorem State.releasedAt_after_driveWave {s : State} (free : ∀ c, s.releasedAt c = true) (w : List Bool) (op : Byte)
    (r : Result) (c : Nat) : ((s.driveWave w).reply op r).releasedAt c = true := by
  have h := free (s.cycle + w.length + (c - (s.cycle + w.length)))
  simp only [State.releasedAt, State.inputAt, State.idleIn, State.reply_inputs, State.driveWave_inputs,
    State.reply_cycle, State.driveWave_cycle, State.reply_params, State.driveWave_params, List.getElem?_drop] at h ⊢
  rwa [show s.cycle + w.length + (c - (s.cycle + w.length)) - s.cycle = w.length + (c - (s.cycle + w.length)) by omega]
    at h

/-- LINE_PREV after a waveform depends only on LINE_PREV, the inputs and the parameters before it (10_state.md R30). -/
theorem State.passWave_linePrev_congr {s t : State} (hp : s.linePrev = t.linePrev) (hi : s.inputs = t.inputs)
    (hq : s.params = t.params) (w : List Bool) : (s.passWave w).linePrev = (t.passWave w).linePrev := by
  induction w generalizing s t with
  | nil => exact hp
  | cons d w ih =>
    refine ih ?_ (congrArg List.tail hi) hq
    simp [State.passCycle, State.inputNow, State.idleIn, hi, hq]

theorem execSendFrame_free {s : State} (free : ∀ c, s.releasedAt c = true) (b : List Byte) :
    ∃ w, exec (.sendFrame b) s = .next w ∧ w.cycle = s.cycle + (bytesWave s.timing b).length
      ∧ w.drvTrace = (bytesWave s.timing b).reverse ++ s.drvTrace
      ∧ w.linePrev = (s.passWave (bytesWave s.timing b)).linePrev := by
  have h : sendFrameAt s.releasedAt s.timing b s.cycle = _ := sendBytesAt_free free s.timing b 0 s.cycle
  refine ⟨_, rfl, ?_⟩
  simp [h, State.raiseCollision, State.driveWave]

theorem State.timing_after_driveWave (s : State) (w : List Bool) (op : Byte) (r : Result) :
    ((s.driveWave w).reply op r).timing = s.timing := by
  simp [State.timing]

/-- On a free line START_FRAME and then SEND_FRAME drive the frame's waveform (30_encoding.md R130). -/
theorem startFrame_sendFrame_free {s : State} (free : ∀ c, s.releasedAt c = true) (b : List Byte) :
    ∃ u w, exec .startFrame s = .next u ∧ exec (.sendFrame b) u = .next w
      ∧ w.cycle = s.cycle + (frameWave s.timing s.syncLowCyc b).length
      ∧ w.drvTrace = (frameWave s.timing s.syncLowCyc b).reverse ++ s.drvTrace
      ∧ w.linePrev = (s.passWave (frameWave s.timing s.syncLowCyc b)).linePrev := by
  have free' := State.releasedAt_after_driveWave free (startWave s.timing s.syncLowCyc) 0x28
    (.started (s.cycle + (startWave s.timing s.syncLowCyc).length))
  obtain ⟨w, hw, hcycle, htrace, hprev⟩ := execSendFrame_free free' b
  rw [State.timing_after_driveWave] at hcycle htrace hprev
  refine ⟨_, w, rfl, hw, ?_, ?_, ?_⟩
  · simp [hcycle, frameWave, Nat.add_assoc]
  · simp [htrace, frameWave]
  · rw [hprev, frameWave, State.passWave_append]
    refine State.passWave_linePrev_congr ?_ ?_ ?_ _
    · rfl
    · simp
    · simp

/-- Settles O31: the frame's waveform is the preamble's and then the cells', driven in one go or in two. -/
theorem frameOnLineIsTheTransmission : Obligations.FrameOnLineIsTheTransmission := by
  intro s b _
  obtain ⟨honly, hcycle, -⟩ := s.putOnLine_drives 0x85 (frameWave s.timing s.syncLowCyc b)
  have hend : s.cycle + (frameWave s.timing s.syncLowCyc b).length
      = s.cycle + s.syncLowCyc + 16 * s.tpDelta.toNat + cellsLength s.timing b := by
    rw [frameWave_length, two_mul_bitSync]; omega
  refine ⟨_, rfl, honly, hcycle.trans hend, by simp [State.putOnLine], fun free => ?_⟩
  obtain ⟨u, w, hu, hw, hcycle', htrace, hprev⟩ := startFrame_sendFrame_free free b
  refine ⟨u, w, hu, hw, hcycle'.trans hcycle.symm, ?_, ?_⟩
  · simp [htrace, State.putOnLine]
  · simp [hprev, State.putOnLine, State.driveWave]

end Sys2Proof.Machine
end

section
/-! SUPPORT. Obligations O19 and O21: VALIDATE's mask bit by bit, and the two frame-format rows. -/

namespace Sys2Proof.Machine

/-! ### The structured checks -/

/-- A mask of one bit. -/
theorem getLsbD_viol_twoPow (c : Bool) {m : Mask} {k : Nat} (hm : m = BitVec.twoPow 16 k) (hk : k < 16) (i : Nat) :
    (viol c m).getLsbD i = (c && decide (k = i)) := by
  cases c <;> simp [viol, hm, hk, BitVec.getLsbD_twoPow]

/-- Each check of a structured frame has its own bit, and no other bit is set (41_frame_format.md R166). -/
theorem getLsbD_validateL3 (b : List Byte) (i : Nat) : (validateL3 b).getLsbD i =
    ((b.getD 0 0 != 0) && decide (6 = i) || (!idPlausible (b.getD 1 0)) && decide (7 = i)
      || (!idPlausible (b.getD 2 0)) && decide (8 = i) || (b.getD 10 0 != 0) && decide (9 = i)
      || (b.getD 11 0 != Config.checksumFn (b.take 11)) && decide (10 = i)) := by
  simp only [validateL3, BitVec.getLsbD_or]
  rw [getLsbD_viol_twoPow _ (m := vL3Soh) (k := 6) rfl (by decide),
    getLsbD_viol_twoPow _ (m := vL3Src) (k := 7) rfl (by decide),
    getLsbD_viol_twoPow _ (m := vL3Dst) (k := 8) rfl (by decide),
    getLsbD_viol_twoPow _ (m := vL3Pad) (k := 9) rfl (by decide),
    getLsbD_viol_twoPow _ (m := vL3Chk) (k := 10) rfl (by decide)]

/-- Settles O19: the mask of the five checks, read at each bit. -/
theorem validateMakesEveryStructuredCheck : Obligations.ValidateMakesEveryStructuredCheck := by
  intro src dst opc d0 d1 d2 d3 d4 d5 pad chk s
  refine ⟨validateL3 [0, src, dst, opc, d0, d1, d2, d3, d4, d5, pad, chk], rfl, ?soh, ?src, ?dst, ?pad, ?chk,
    fun i hi => ?other⟩ <;> rw [getLsbD_validateL3]
  case soh | pad | chk => simp
  case src | dst => simp [idPlausible]
  case other =>
    have hne : 6 ≠ i ∧ 7 ≠ i ∧ 8 ≠ i ∧ 9 ≠ i ∧ 10 ≠ i := by omega
    simp [hne]

/-! ### The format rows -/

theorem frameLen_of_ne_zero {t : Byte} (h : t ≠ 0) : frameLen t = t.toNat := if_neg h

/-- Settles O21: the bytes as they stand, with the length of the tag 0x00 and of the tag N. -/
theorem formatRowsGiveTheirBytes : Obligations.FormatRowsGiveTheirBytes := by
  refine fun s => ⟨fun src dst opc d0 d1 d2 d3 d4 d5 pad chk => rfl, fun len body h => ?_⟩
  have hne : len ≠ 0 := by
    rintro rfl
    exact Nat.succ_ne_zero _ h
  have hlen : frameLen len = body.length + 1 := (frameLen_of_ne_zero hne).trans h.symm
  exact congrArg (fun n => Host.Outcome.next (s.reply 0x80 (.frameBytes (len :: body) n))) hlen

end Sys2Proof.Machine
end

section
/-! SUPPORT. Obligation O42: a cycle in which an agent finds an unreachable code. An undefined ARB_SUB runs the sub-phase 0 of
its state, which decides on nothing that tells the two apart, so the cycle is that of ARB_SUB = 0 but for the flag. -/

namespace Sys2Proof.Machine

/-! ### The cycle of one agent -/

/-- Where ARB runs, no reception and no probe does (44_arbitration.md R216). -/
theorem agents_idle_of_arbRuns {s : State} {l : Bool} (h : s.arbRuns l = true) :
    s.rxActive = false ∧ s.diagMode = false := by
  simp only [State.arbRuns, State.frozen, Bool.and_eq_true, Bool.not_eq_true', Bool.or_eq_false_iff] at h
  obtain ⟨-, ⟨⟨hrx, -⟩, hdiag⟩, -⟩ := h
  exact ⟨hrx, hdiag⟩

/-- With HOSTLOCK 0, a cycle in which nobody writes is the passing of its time. -/
theorem elapsed_eq_endCycle {s : State} (h : s.hostLock = false) : s.elapsed = endCycle s s := by
  simp only [State.elapsed, endCycle, h]

/-- In a cycle of ARB's alone, ARB's fault is the step's. -/
theorem step_arb_fault {s : State} {f : Fault} (hu : s.undisturbed) (ha : s.arbRuns false = true)
    (hf : s.arbFault = some f) : step s = .fault f := by
  obtain ⟨hr, hc, -, -, hl⟩ := hu
  obtain ⟨hx, hd⟩ := agents_idle_of_arbRuns ha
  rw [step_quiet s hr (by simp [hc])]
  simp [clockOut, agentFault, rxIndexFault, diagIndexFault, hx, hd, hl, ha, hf]

/-! ### ARB_STATE of 5 to 7, RX_PHASE of 6 or 7 -/

theorem arbState_unreachable {s : State} (h : 5 ≤ s.arbState.toNat) :
    s.arbState.toNat = 5 ∨ s.arbState.toNat = 6 ∨ s.arbState.toNat = 7 := by
  have := s.arbState.isLt
  omega

theorem arbFault_of_unreachable {s : State} (h : 5 ≤ s.arbState.toNat) : s.arbFault = none := by
  rcases arbState_unreachable h with e | e | e <;> simp [State.arbFault, State.arbNoEffect, e]

theorem arbStep_of_unreachable {s0 : State} (h : 5 ≤ s0.arbState.toNat) (s : State) :
    arbStep s0 s = arbUnreachable s := by
  rcases arbState_unreachable h with e | e | e <;> simp only [arbStep, e]

theorem step_of_arbState_unreachable {s : State} (hu : s.undisturbed) (ha : s.arbRuns false = true)
    (h : 5 ≤ s.arbState.toNat) : step s = .next (endCycle s (arbUnreachable s)) := by
  rw [step_arb s hu (agents_idle_of_arbRuns ha).1 ha (arbFault_of_unreachable h), arbStep_of_unreachable h]

theorem step_of_rxPhase_unreachable {s : State} (hu : s.undisturbed) (hd : s.diagMode = false)
    (hx : s.rxActive = true) (h : 6 ≤ s.rxPhase.toNat) : step s = .next (endCycle s (rxUnreachable s)) := by
  have hlt := s.rxPhase.isLt
  have hindex : rxIndexFault s = false := by
    have hphase : (s.rxPhase == 5) = false := beq_eq_false_iff_ne.mpr (by bv_omega)
    simp only [rxIndexFault, hphase, Bool.and_false, Bool.false_and]
  rw [step_reception s hu hx hd hindex]
  rcases (by omega : s.rxPhase.toNat = 6 ∨ s.rxPhase.toNat = 7) with e | e <;> simp only [rxStep, e]

/-! ### An undefined ARB_SUB -/

/-- The sub-phase 0 of the state ARB_STATE (10_state.md R40). -/
def arbPhase0 (s0 s : State) : State :=
  match s0.arbState.toNat with
  | 0 => arbWaiting s0 s
  | 1 => listenCheck s0 s
  | 2 => startSyncLow s0 s
  | 3 => sendHigh s0 s
  | _ => readPop s0 s

theorem arbState_reachable {s : State} (h : s.arbState.toNat ≤ 4) : s.arbState.toNat = 0 ∨ s.arbState.toNat = 1
    ∨ s.arbState.toNat = 2 ∨ s.arbState.toNat = 3 ∨ s.arbState.toNat = 4 := by
  omega

/-- The states but Waiting look whether ARB_SUB is 1, and Starting whether it is 2. -/
theorem arbSub_ne_one {s : State} (h0 : s.arbState.toNat ≠ 0) (h : s.arbSub = 0 ∨ s.arbSubDefined = false) :
    s.arbSub ≠ 1 := by
  intro e
  rcases h with h | h
  · rw [e] at h
    exact absurd h (by decide)
  · unfold State.arbSubDefined at h
    rw [e] at h
    split at h
    next h' => exact h0 h'
    next => exact absurd h (by decide)
    next => exact absurd h (by decide)

theorem arbSub_ne_two {s : State} (h2 : s.arbState.toNat = 2) (h : s.arbSub = 0 ∨ s.arbSubDefined = false) :
    s.arbSub ≠ 2 := by
  intro e
  rcases h with h | h
  · rw [e] at h
    exact absurd h (by decide)
  · simp only [State.arbSubDefined, h2, e] at h
    exact absurd h (by decide)

theorem arbRun_congr {op op' : State → State → State} {s0 : State} (h : ∀ t, op s0 t = op' s0 t) (s : State) :
    arbRun op s0 s = arbRun op' s0 s := by
  simp only [arbRun, h]

/-- With ARB_SUB at 0 or undefined ARB runs the sub-phase 0 of its state. -/
theorem arbStep_eq_arbPhase0 {s0 : State} (hstate : s0.arbState.toNat ≤ 4)
    (hsub : s0.arbSub = 0 ∨ s0.arbSubDefined = false) (s : State) : arbStep s0 s = arbRun arbPhase0 s0 s := by
  have ne_one := fun h0 => arbSub_ne_one h0 hsub
  rcases arbState_reachable hstate with e | e | e | e | e <;> simp only [arbStep, e] <;>
    refine arbRun_congr (fun t => ?_) s <;> simp only [arbPhase0, e]
  · simp only [arbListening, if_neg (ne_one (by omega))]
  · simp only [arbStarting, if_neg (ne_one (by omega)), if_neg (arbSub_ne_two e hsub)]
  · simp only [arbSending, if_neg (ne_one (by omega))]
  · simp only [arbReading, if_neg (ne_one (by omega))]

/-- The state with ARB_SUB = 0 in place of the value it has. -/
def State.subZero (s : State) : State := { s with arbSub := 0 }

/-- An undefined ARB_SUB and ARB_SUB = 0 find the same sub-phase without effect. -/
theorem arbNoEffect_subZero {s : State} (h : s.arbSubDefined = false) : s.subZero.arbNoEffect = s.arbNoEffect := by
  by_cases h0 : s.arbState.toNat = 0
  · simp only [State.arbNoEffect, State.subZero, h0]
    rfl
  · simp only [State.arbNoEffect, if_neg (arbSub_ne_one h0 (.inr h))]
    rfl

theorem arbSubDefined_subZero (s : State) : s.subZero.arbSubDefined = true := by
  unfold State.arbSubDefined
  split <;> rfl

/-- `t` is `u` with STAT_INVARIANT set, up to DRV_LOW, ARB_SUB and the event history. -/
def FlaggedOf (u t : State) : Prop := t = { u with
    statInvariant := true
    drvLow := t.drvLow
    arbSub := t.arbSub
    events := t.events }

/-- The sub-phase 0 writes the same from a flagged state as from the one with ARB_SUB = 0. -/
theorem arbPhase0_flaggedOf (s : State) :
    FlaggedOf (arbPhase0 s.subZero s.subZero) (arbPhase0 s s.flagInvariant) := by
  have hreads : arbPhase0 s.subZero s.subZero = arbPhase0 s s.subZero := rfl
  rw [hreads]
  unfold arbPhase0
  split
  · unfold arbWaiting
    split
    · exact rfl
    · split
      · exact rfl
      · split <;> exact rfl
  · unfold listenCheck
    split <;> exact rfl
  · unfold startSyncLow State.raiseTxStart
    split <;> split <;> exact rfl
  · unfold sendHigh
    dsimp only
    split
    · exact rfl
    · split
      · exact rfl
      · split
        · split <;> exact rfl
        · exact rfl
  · unfold readPop
    split <;> exact rfl

/-- The sub-phase 0 only adds to the event history. -/
theorem events_suffix_arbPhase0 (s0 s : State) : s.events <:+ (arbPhase0 s0 s).events := by
  have added : ∀ r : Raised, s.events <:+ r :: s.events := fun r => List.suffix_cons r _
  unfold arbPhase0
  split
  · unfold arbWaiting
    split
    · exact List.suffix_rfl
    · split
      · exact List.suffix_rfl
      · split <;> exact List.suffix_rfl
  · unfold listenCheck
    split
    · exact List.suffix_rfl
    · exact added _
  · unfold startSyncLow State.raiseTxStart
    split <;> split
    · exact added _
    · exact added _
    · exact List.suffix_rfl
    · exact List.suffix_rfl
  · unfold sendHigh
    dsimp only
    split
    · exact List.suffix_rfl
    · split
      · exact added _
      · split
        · split
          · exact List.suffix_rfl
          · exact added _
        · exact List.suffix_rfl
  · unfold readPop
    split <;> exact List.suffix_rfl

/-- What ARB writes in a cycle with an undefined ARB_SUB, before the line is released (44_arbitration.md R237). -/
def arbFlagged (s : State) : State :=
  if s.arbNoEffect = none then arbPhase0 s s.flagInvariant else s.flagInvariant

section
variable {s : State}

theorem step_of_arbSub_undefined (hu : s.undisturbed) (ha : s.arbRuns false = true) (hstate : s.arbState.toNat ≤ 4)
    (hsub : s.arbSubDefined = false) : step s = .next (endCycle s { arbFlagged s with drvLow := false }) := by
  have hfault : s.arbFault = none := by simp [State.arbFault, hsub]
  rw [step_arb s hu (agents_idle_of_arbRuns ha).1 ha hfault, arbStep_eq_arbPhase0 hstate (.inr hsub)]
  simp [arbRun, hsub, arbFlagged]

/-- The step from ARB_SUB = 0, where it does not fault. -/
theorem arbNoEffect_and_eq_of_step_subZero (hu : s.undisturbed) (ha : s.arbRuns false = true)
    (hstate : s.arbState.toNat ≤ 4) (hsub : s.arbSubDefined = false) {u : State} (hstep : step s.subZero = .next u) :
    s.arbNoEffect = none ∧ u = endCycle s (arbPhase0 s.subZero s.subZero) := by
  have hu' : s.subZero.undisturbed := hu
  have ha' : s.subZero.arbRuns false = true := ha
  have hdef := arbSubDefined_subZero s
  have hfault : s.subZero.arbFault = s.arbNoEffect := by
    rw [State.arbFault, if_pos hdef, arbNoEffect_subZero hsub]
  cases hne : s.arbNoEffect with
  | none =>
    rw [step_arb _ hu' (agents_idle_of_arbRuns ha').1 ha' (hfault.trans hne),
      arbStep_eq_arbPhase0 (s0 := s.subZero) hstate (.inl rfl), arbRun_defined _ _ _ hdef] at hstep
    cases hstep
    exact ⟨rfl, rfl⟩
  | some f =>
    rw [step_arb_fault hu' ha' (hfault.trans hne)] at hstep
    cases hstep

theorem arbFlagged_statInvariant (s : State) : (arbFlagged s).statInvariant = true := by
  unfold arbFlagged
  split
  · rw [arbPhase0_flaggedOf s]
  · rfl

theorem invariant_mem_arbFlagged_events (s : State) : ⟨s.cycle, .invariant⟩ ∈ (arbFlagged s).events := by
  have hmem : ⟨s.cycle, .invariant⟩ ∈ s.flagInvariant.events := List.mem_cons_self
  unfold arbFlagged
  split
  · exact (events_suffix_arbPhase0 s _).mem hmem
  · exact hmem

theorem arbFlagged_of_noEffect {f : Fault} (h : s.arbNoEffect = some f) : arbFlagged s = s.flagInvariant := by
  simp [arbFlagged, h]

/-- A POP of an empty RING has no effect (20_memory.md R76). -/
theorem arbNoEffect_pop_empty (hstate : s.arbState = arbReadingCode) (hsub : s.arbSubDefined = false)
    (hring : s.ring = []) : s.arbNoEffect = some .popEmpty := by
  have hne := arbSub_ne_one (by simp [hstate]) (.inr hsub)
  simp only [State.arbNoEffect, hstate, if_neg hne, hring]
  rfl

/-- But for the flag, ARB_SUB and the event the cycle is that of ARB_SUB = 0, with the line released. -/
theorem endCycle_arbFlagged (h : s.arbNoEffect = none) :
    FlaggedOf (endCycle s (arbPhase0 s.subZero s.subZero))
      (endCycle s { arbFlagged s with drvLow := false }) := by
  have hflagged := arbPhase0_flaggedOf s
  rw [arbFlagged, if_pos h]
  exact congrArg (fun t => endCycle s { t with drvLow := false }) hflagged

end

/-! ### The statement -/

/-- Settles O42: by the agent that meets the code. -/
theorem unreachableStateIsFlaggedAndStays : Obligations.UnreachableStateIsFlaggedAndStays := by
  intro s hu
  have ⟨_, _, _, _, hlock⟩ := hu
  rw [elapsed_eq_endCycle hlock]
  refine ⟨fun ha hstate => step_of_arbState_unreachable hu ha hstate,
    fun hd hx hphase => step_of_rxPhase_unreachable hu hd hx hphase, fun ha hstate hsub => ?_⟩
  refine ⟨_, step_of_arbSub_undefined hu ha hstate hsub, arbFlagged_statInvariant s, rfl,
    invariant_mem_arbFlagged_events s, fun u hstep => ?zero, fun hreading hring => ?empty⟩
  case zero =>
    obtain ⟨heffect, rfl⟩ := arbNoEffect_and_eq_of_step_subZero hu ha hstate hsub hstep
    exact endCycle_arbFlagged heffect
  case empty =>
    rw [arbFlagged_of_noEffect (arbNoEffect_pop_empty hreading hsub hring)]
    rfl

end Sys2Proof.Machine
end

section
/-! SUPPORT. Obligations O11 and O12: SAMPLE_BIT. It is stuck or it classifies a width, and its bound decides which. -/

namespace Sys2Proof.Machine

/-! ### The operation -/

/-- The answer of SAMPLE_BIT when its sample is known. -/
theorem exec_sampleBit_of_eq {s : State} {o : BitSample} (h : sampleBitAt s.lineAt s.timing s.cycle = o) :
    ∃ t, exec .sampleBit s = .next t ∧ t.cycle = o.tEnd
      ∧ t.replies = ⟨o.tEnd, 0x01, .sampledBit o.r o.h o.tEnd⟩ :: s.replies
      ∧ t.drvTrace = List.replicate (o.tEnd - s.cycle) s.drvLow ++ s.drvTrace ∧ OnlyTimePassed s t := by
  have hle := sampleBitAt_le s.lineAt s.timing s.cycle
  have hcycle : s.cycle + ((sampleBitAt s.lineAt s.timing s.cycle).tEnd - s.cycle)
      = (sampleBitAt s.lineAt s.timing s.cycle).tEnd := by omega
  subst h
  refine ⟨_, rfl, ?_, ?_, ?_, s.passIdle_reply_onlyTimePassed _ _ _⟩ <;> simp [hcycle]

/-- Settles O11: the low and the high run within their bounds are counted whole. -/
theorem sampleBitClassifiesByWidth : Obligations.SampleBitClassifiesByWidth := by
  rintro s n h hn hpos hh ⟨hlow, hhigh, hfall, -⟩
  have hbit := sampleBitAt_bit s.lineAt s.timing hn hlow hpos hh hhigh (hfall 0 Nat.one_pos)
  obtain ⟨t, hexec, hcycle, hreplies, htrace, honly⟩ := exec_sampleBit_of_eq hbit
  refine ⟨t, hexec, hreplies, hcycle, ?_, honly⟩
  rwa [show s.cycle + n + h - s.cycle = n + h by omega] at htrace

/-! ### Stuck lines -/

/-- What SAMPLE_BIT can answer: LOW_STUCK after a low phase past its bound, HIGH_STUCK after a high phase past its bound,
or a bit (40_bit_codec.md R141). -/
theorem sampleBitAt_cases (tr : Nat → Bool) (p : Timing) (t : Nat) :
    ((∀ k, k ≤ p.lowTmo → tr (t + k) = false) ∧ sampleBitAt tr p t = ⟨.fault .lowStuck, 0, t + p.lowTmo⟩)
    ∨ (∃ n, n ≤ p.lowTmo ∧ (∀ k, k < n → tr (t + k) = false)
        ∧ (∀ k, k ≤ p.highTmo → tr (t + n + k) = true)
        ∧ sampleBitAt tr p t = ⟨.fault .highStuck, p.highTmo, t + n + p.highTmo⟩)
    ∨ ∃ v, (sampleBitAt tr p t).r = .bit v := by
  by_cases hlow : p.lowTmo < runLen tr false (p.lowTmo + 1) t
  · have hl : ∀ k, k < p.lowTmo + 1 → tr (t + k) = false := fun k hk => runLen_level _ _ _ _ k (Nat.lt_of_lt_of_le hk hlow)
    exact .inl ⟨fun k hk => hl k (by omega), sampleBitAt_low tr p hl⟩
  by_cases hhigh : p.highTmo < runLen tr true (p.highTmo + 1) (t + runLen tr false (p.lowTmo + 1) t)
  · have hl := runLen_level tr false (p.lowTmo + 1) t
    have hu : ∀ k, k < p.highTmo + 1 → tr (t + runLen tr false (p.lowTmo + 1) t + k) = true :=
      fun k hk => runLen_level _ _ _ _ k (Nat.lt_of_lt_of_le hk hhigh)
    exact .inr (.inl ⟨_, by omega, hl, fun k hk => hu k (by omega), sampleBitAt_high tr p (by omega) hl hu⟩)
  · refine .inr (.inr ⟨p.classify (runLen tr true (p.highTmo + 1) (t + runLen tr false (p.lowTmo + 1) t)), ?_⟩)
    simp only [sampleBitAt, if_neg hlow, if_neg hhigh]

/-- The first high cycle of a line is one cycle. -/
theorem first_high_unique {tr : Nat → Bool} {t m n : Nat} (hm : ∀ k, k < m → tr (t + k) = false)
    (hm' : tr (t + m) = true) (hn : ∀ k, k < n → tr (t + k) = false) (hn' : tr (t + n) = true) : m = n := by
  rcases Nat.lt_trichotomy m n with h | h | h
  · exact absurd hm' (by simp [hn m h])
  · exact h
  · exact absurd hn' (by simp [hm n h])

/-- LOW_STUCK is the answer exactly on a line that is low for the whole bound (40_bit_codec.md R145). -/
theorem sampleBitAt_lowStuck_iff (tr : Nat → Bool) (p : Timing) (t : Nat) :
    (sampleBitAt tr p t).r = .fault .lowStuck ↔ ∀ k, k ≤ p.lowTmo → tr (t + k) = false := by
  refine ⟨fun hr => ?_, fun hl => by rw [sampleBitAt_low tr p fun k hk => hl k (by omega)]⟩
  rcases sampleBitAt_cases tr p t with ⟨hl, -⟩ | ⟨n, -, -, -, ho⟩ | ⟨v, hv⟩
  · exact hl
  · simp [ho] at hr
  · simp [hv] at hr

/-- HIGH_STUCK is the answer exactly on a line that rises in time and then is high past its bound
(40_bit_codec.md R144). -/
theorem sampleBitAt_highStuck_iff (tr : Nat → Bool) (p : Timing) (t : Nat) :
    (sampleBitAt tr p t).r = .fault .highStuck ↔ ∃ n, n ≤ p.lowTmo ∧ (∀ k, k < n → tr (t + k) = false)
      ∧ ∀ k, k ≤ p.highTmo → tr (t + n + k) = true := by
  constructor
  · intro hr
    rcases sampleBitAt_cases tr p t with ⟨-, ho⟩ | ⟨n, hn, hl, hu, -⟩ | ⟨v, hv⟩
    · simp [ho] at hr
    · exact ⟨n, hn, hl, hu⟩
    · simp [hv] at hr
  · rintro ⟨n, hn, hl, hu⟩
    rw [sampleBitAt_high tr p hn hl fun k hk => hu k (by omega)]

/-- Settles O12: each fault by its characterisation, its end by the bound that decides it. -/
theorem sampleBitFaultsExactlyWhenStuck : Obligations.SampleBitFaultsExactlyWhenStuck := by
  intro s
  obtain ⟨t, hexec, hcycle, hreplies, -, honly⟩ := exec_sampleBit_of_eq (s := s) rfl
  have hlowIff := sampleBitAt_lowStuck_iff s.lineAt s.timing s.cycle
  have hhighIff := sampleBitAt_highStuck_iff s.lineAt s.timing s.cycle
  refine ⟨t, _, _, hexec, hcycle ▸ hreplies, honly, hlowIff, fun hr => ?low, hhighIff, fun n hl hu hr => ?high⟩
  case low =>
    have ho := sampleBitAt_low s.lineAt s.timing fun k hk => hlowIff.mp hr k (by omega)
    rw [hcycle, ho]
    exact ⟨rfl, rfl⟩
  case high =>
    obtain ⟨m, hm, hlm, hum⟩ := hhighIff.mp hr
    obtain rfl := first_high_unique hlm (hum 0 (Nat.zero_le _)) hl hu
    have ho := sampleBitAt_high s.lineAt s.timing hm hlm fun k hk => hum k (by omega)
    rw [hcycle, ho]
    exact ⟨rfl, rfl⟩

end Sys2Proof.Machine
end

section
/-! SUPPORT. Obligation O15: two cells on one line. Each device's line is high where the other does not pull low, so the
longer high phase meets the shorter one's guard. -/

namespace Sys2Proof.Machine

/-- What DRIVE_BIT leaves: its waveform driven, its end cycle, its reply. -/
theorem drives_of_exec_driveBit {s t : State} {v : Bool} (h : exec (.driveBit v) s = .next t) :
    (∀ k, drivenAt s t k = (driveBitAt s.releasedAt s.timing v s.cycle).wave[k]?)
    ∧ t.cycle = (driveBitAt s.releasedAt s.timing v s.cycle).tNext
    ∧ t.replies = ⟨t.cycle, 0x03, .driven (driveBitAt s.releasedAt s.timing v s.cycle).hit.isSome t.cycle⟩
        :: s.replies := by
  cases h
  have hlen := driveBitAt_length s.releasedAt s.timing v s.cycle
  refine ⟨s.drivenAt_driveWave_reply _ _ _, ?_, ?_⟩ <;> simp [hlen]

/-- DRIVE_BIT releases the line in the whole high phase, whatever check 1 finds (40_bit_codec.md R147, R148). -/
theorem driveBitAt_wave_high (tr : Nat → Bool) (p : Timing) (v : Bool) (t : Nat) {k : Nat} (hk : k < p.cellHigh v) :
    (driveBitAt tr p v t).wave[k]? = some false := by
  cases h1 : tr (t + p.cellHigh v - 1) with
  | false => rw [driveBitAt_check1 h1, List.getElem?_replicate, if_pos hk]
  | true => rw [driveBitAt_cell h1]; exact highLow_high _ hk

/-- Settles O15: P's check 1 and check 2 find the line as Q leaves it, and Q's check 1 is in P's guard. -/
theorem dominantBitWins : Obligations.DominantBitWins := by
  intro sP sQ tP tQ hcycle hdelta hpos hguard hP hQ hseenP hseenQ
  obtain ⟨hwaveP, hendP, hreplyP⟩ := drives_of_exec_driveBit hP
  obtain ⟨hwaveQ, hendQ, hreplyQ⟩ := drives_of_exec_driveBit hQ
  have highP : sP.timing.cellHigh false = sP.tpDelta.toNat := rfl
  have highQ : sQ.timing.cellHigh true = 2 * sP.tpDelta.toNat := by rw [cellHigh_eq, if_pos rfl, hdelta]
  have checkP1 : sP.releasedAt (sP.cycle + sP.timing.cellHigh false - 1) = true := by
    rw [highP, Nat.add_sub_assoc hpos, hseenP, hwaveQ, driveBitAt_wave_high _ _ _ _ (by omega)]
    rfl
  rw [driveBitAt_cell checkP1] at hwaveP hendP hreplyP
  have lowP : ∀ k, sP.tpDelta.toNat ≤ k → k < sP.tpDelta.toNat + 150 → drivenAt sP tP k = some true :=
    fun k hm hk => (hwaveP k).trans (highLow_low hm hk)
  have checkQ1 : sQ.releasedAt (sQ.cycle + sQ.timing.cellHigh true - 1) = false := by
    rw [highQ, Nat.add_sub_assoc (by omega), hseenQ, lowP _ (by omega) (by omega)]
    rfl
  rw [driveBitAt_check1 checkQ1] at hwaveQ hendQ hreplyQ
  have quietQ : ∀ k, drivenAt sQ tQ k ≠ some true := fun k => by
    rw [hwaveQ, List.getElem?_replicate]
    split <;> simp
  have checkP2 : sP.releasedAt (sP.cycle + sP.timing.cellHigh false + Config.guardCyc) = true := by
    rw [Nat.add_assoc, hseenP, beq_eq_false_iff_ne.mpr (quietQ _)]
    rfl
  refine ⟨?_, ?_, quietQ, lowP⟩
  · rw [hreplyP, hendP, if_neg (by simp [checkP2])]
    rfl
  · rw [hreplyQ, hendQ]
    rfl

end Sys2Proof.Machine
end

section
/-! SUPPORT. Obligations O28 and O29: cells driven one after another up to the first check that finds the line low.
SEND_BYTE and SEND_FRAME are both the drive of a list of bits, and differ in the index they give the failing cell. -/

namespace Sys2Proof.Machine

/-! ### A list of cells -/

/-- A drive that follows `n` cells of the waveform `w`: its failing cell counts from the first of these. -/
def ByteDrive.after (d : ByteDrive) (n : Nat) (w : List Bool) : ByteDrive :=
  ⟨d.hit.map fun x => (x.1, x.2 + n), d.tNext, w ++ d.wave⟩

/-- The cells of bits driven from cycle `t`, up to the first collision, with the number of the failing cell. -/
def driveCellsAt (tr : Nat → Bool) (p : Timing) : List Bool → Nat → ByteDrive
  | [], t => ⟨none, t, []⟩
  | v :: r, t =>
    let d := driveBitAt tr p v t
    match d.hit with
    | some c => ⟨some (c, 0), d.tNext, d.wave⟩
    | none => (driveCellsAt tr p r d.tNext).after 1 d.wave

@[simp] theorem ByteDrive.after_zero (d : ByteDrive) : d.after 0 [] = d := by
  simp [ByteDrive.after]

@[simp] theorem ByteDrive.after_after (d : ByteDrive) (m n : Nat) (v w : List Bool) :
    (d.after m w).after n v = d.after (m + n) (v ++ w) := by
  simp only [ByteDrive.after, Option.map_map, List.append_assoc, ByteDrive.mk.injEq, and_true]
  congr 1
  funext x
  simp [Nat.add_assoc]

section
variable {tr : Nat → Bool} {p : Timing} {v : Bool} {t : Nat}

theorem driveCellsAt_cons_hit {c : Check} (h : (driveBitAt tr p v t).hit = some c) (r : List Bool) :
    driveCellsAt tr p (v :: r) t = ⟨some (c, 0), (driveBitAt tr p v t).tNext, (driveBitAt tr p v t).wave⟩ := by
  simp only [driveCellsAt, h]

theorem driveCellsAt_cons_free (h : (driveBitAt tr p v t).hit = none) (r : List Bool) :
    driveCellsAt tr p (v :: r) t
      = (driveCellsAt tr p r (driveBitAt tr p v t).tNext).after 1 (driveBitAt tr p v t).wave := by
  simp only [driveCellsAt, h]

end

/-- A collision in the first cells ends the drive. -/
theorem driveCellsAt_append_hit {tr : Nat → Bool} {p : Timing} {xs : List Bool} {t : Nat} {x : Check × Nat}
    (h : (driveCellsAt tr p xs t).hit = some x) (ys : List Bool) :
    driveCellsAt tr p (xs ++ ys) t = driveCellsAt tr p xs t := by
  induction xs generalizing t x with
  | nil => cases h
  | cons v xs ih =>
    rw [List.cons_append]
    cases hd : (driveBitAt tr p v t).hit with
    | some c => rw [driveCellsAt_cons_hit hd, driveCellsAt_cons_hit hd]
    | none =>
      rw [driveCellsAt_cons_free hd] at h
      obtain ⟨y, hy, -⟩ := Option.map_eq_some_iff.mp h
      rw [driveCellsAt_cons_free hd, driveCellsAt_cons_free hd, ih hy]

/-- First cells without a collision are followed by the next. -/
theorem driveCellsAt_append_free {tr : Nat → Bool} {p : Timing} {xs : List Bool} {t : Nat}
    (h : (driveCellsAt tr p xs t).hit = none) (ys : List Bool) :
    driveCellsAt tr p (xs ++ ys) t
      = (driveCellsAt tr p ys (driveCellsAt tr p xs t).tNext).after xs.length (driveCellsAt tr p xs t).wave := by
  induction xs generalizing t with
  | nil => simp [driveCellsAt]
  | cons v xs ih =>
    rw [List.cons_append]
    cases hd : (driveBitAt tr p v t).hit with
    | some c => simp [driveCellsAt_cons_hit hd] at h
    | none =>
      rw [driveCellsAt_cons_free hd] at h ⊢
      rw [driveCellsAt_cons_free hd, ih (Option.map_eq_none_iff.mp h), ByteDrive.after_after]
      rfl

/-- The failing cell is one of those driven. -/
theorem driveCellsAt_hit_lt {tr : Nat → Bool} {p : Timing} {bits : List Bool} {t : Nat} {c : Check} {k : Nat}
    (h : (driveCellsAt tr p bits t).hit = some (c, k)) : k < bits.length := by
  induction bits generalizing t k with
  | nil => cases h
  | cons v bits ih =>
    cases hd : (driveBitAt tr p v t).hit with
    | some c' =>
      rw [driveCellsAt_cons_hit hd] at h
      cases h
      exact Nat.succ_pos _
    | none =>
      rw [driveCellsAt_cons_free hd] at h
      obtain ⟨⟨c', k'⟩, hk', he⟩ := Option.map_eq_some_iff.mp h
      cases he
      exact Nat.succ_lt_succ (ih hk')

/-! ### SEND_BYTE and SEND_FRAME as lists of cells -/

/-- The last `k` bits of a byte, bit `k - 1` first (30_encoding.md R110). -/
def lastBits (b : Byte) : Nat → List Bool
  | 0 => []
  | k + 1 => b.getLsbD k :: lastBits b k

theorem bitsOf_cons (x : Byte) (b : List Byte) : bitsOf (x :: b) = lastBits x 8 ++ bitsOf b := rfl

theorem bitsOf_singleton (x : Byte) : bitsOf [x] = lastBits x 8 := rfl

theorem length_bitsOf (b : List Byte) : (bitsOf b).length = 8 * b.length := by
  induction b with
  | nil => rfl
  | cons x b ih =>
    rw [bitsOf_cons, List.length_append, ih, List.length_cons]
    exact (Nat.add_comm ..).trans (Nat.mul_succ ..).symm

theorem bitsWave_eq_flatMap (p : Timing) (b : Byte) (k : Nat) : bitsWave p b k = (lastBits b k).flatMap (cellWave p) := by
  induction k with
  | zero => rfl
  | succ k ih => rw [bitsWave, lastBits, List.flatMap_cons, ih]

theorem bytesWave_eq_flatMap (p : Timing) (b : List Byte) : bytesWave p b = (bitsOf b).flatMap (cellWave p) := by
  induction b with
  | nil => rfl
  | cons x b ih => rw [bytesWave, bitsOf_cons, List.flatMap_append, bitsWave_eq_flatMap, ih]

/-- The last bits of a byte are driven as their cells; the failing cell has the bit's index (43_transmission.md R203). -/
theorem sendBitsAt_eq (tr : Nat → Bool) (p : Timing) (b : Byte) (k t : Nat) :
    sendBitsAt tr p b k t = ⟨(driveCellsAt tr p (lastBits b k) t).hit.map fun x => (x.1, k - 1 - x.2),
      (driveCellsAt tr p (lastBits b k) t).tNext, (driveCellsAt tr p (lastBits b k) t).wave⟩ := by
  induction k generalizing t with
  | zero => rfl
  | succ k ih =>
    rw [lastBits]
    cases hd : (driveBitAt tr p (b.getLsbD k) t).hit with
    | some c => simp [sendBitsAt, driveCellsAt_cons_hit hd, hd]
    | none =>
      simp only [sendBitsAt, driveCellsAt_cons_free hd, hd, ih, ByteDrive.after, Option.map_map, ByteDrive.mk.injEq,
        and_true]
      congr 1
      funext x
      simp [Nat.sub_sub, Nat.add_comm]

theorem sendByteAt_eq (tr : Nat → Bool) (p : Timing) (b : Byte) (t : Nat) :
    sendByteAt tr p b t = ⟨(driveCellsAt tr p (bitsOf [b]) t).hit.map fun x => (x.1, 7 - x.2),
      (driveCellsAt tr p (bitsOf [b]) t).tNext, (driveCellsAt tr p (bitsOf [b]) t).wave⟩ :=
  sendBitsAt_eq tr p b 8 t

/-- A failing cell with the byte and the bit it carries, in a byte sequence whose first byte has index `j`. -/
def cellInFrame (j : Nat) (x : Check × Nat) : Check × Nat × Nat := (x.1, j + x.2 / 8, 7 - x.2 % 8)

/-- The bytes of a frame are driven as their cells; the failing cell has the byte's and the bit's index
(43_transmission.md R204). -/
theorem sendBytesAt_eq (tr : Nat → Bool) (p : Timing) (b : List Byte) (j t : Nat) :
    sendBytesAt tr p b j t = ⟨(driveCellsAt tr p (bitsOf b) t).hit.map (cellInFrame j),
      (driveCellsAt tr p (bitsOf b) t).tNext, (driveCellsAt tr p (bitsOf b) t).wave⟩ := by
  induction b generalizing j t with
  | nil => rfl
  | cons x b ih =>
    rw [bitsOf_cons, ← bitsOf_singleton]
    cases hd : (driveCellsAt tr p (bitsOf [x]) t).hit with
    | some y =>
      obtain ⟨c, k⟩ := y
      have hk : k < 8 := driveCellsAt_hit_lt hd
      simp [sendBytesAt, sendByteAt_eq, driveCellsAt_append_hit hd, hd, cellInFrame, Nat.div_eq_of_lt hk,
        Nat.mod_eq_of_lt hk]
    | none =>
      simp only [sendBytesAt, sendByteAt_eq, driveCellsAt_append_free hd, hd, ih, ByteDrive.after, Option.map_none,
        Option.map_map, FrameDrive.mk.injEq, and_true, length_bitsOf]
      congr 1
      funext y
      simp [cellInFrame, Nat.add_div_right, Nat.add_assoc, Nat.add_comm 1]

theorem sendFrameAt_eq (tr : Nat → Bool) (p : Timing) (b : List Byte) (t : Nat) :
    sendFrameAt tr p b t = ⟨(driveCellsAt tr p (bitsOf b) t).hit.map (cellInFrame 0),
      (driveCellsAt tr p (bitsOf b) t).tNext, (driveCellsAt tr p (bitsOf b) t).wave⟩ :=
  sendBytesAt_eq tr p b 0 t

/-! ### The first failing check -/

/-- Both checks of every cell before cell `n` find the line high (40_bit_codec.md R148, R149). -/
def ChecksHigh (tr : Nat → Bool) (p : Timing) (bits : List Bool) (t n : Nat) : Prop :=
  ∀ j w, j < n → bits[j]? = some w →
    tr (t + cellBegin p bits j + p.cellHigh w - 1) = true ∧ tr (t + cellBegin p bits (j + 1)) = true

theorem cellBegin_cons (p : Timing) (v : Bool) (bits : List Bool) (n : Nat) :
    cellBegin p (v :: bits) (n + 1) = p.cellHigh v + Config.guardCyc + cellBegin p bits n := by
  simp [cellBegin]

theorem cellBegin_succ (p : Timing) {bits : List Bool} {k : Nat} {v : Bool} (h : bits[k]? = some v) :
    cellBegin p bits (k + 1) = cellBegin p bits k + p.cellHigh v + Config.guardCyc := by
  simp [cellBegin, List.take_add_one, h, Nat.add_assoc]

theorem cellBegin_length (p : Timing) (b : List Byte) : cellBegin p (bitsOf b) (bitsOf b).length = cellsLength p b := by
  rw [← bytesWave_length, bytesWave_eq_flatMap]
  simp [cellBegin, List.length_flatMap]

theorem ChecksHigh.head {tr : Nat → Bool} {p : Timing} {v : Bool} {bits : List Bool} {t n : Nat}
    (h : ChecksHigh tr p (v :: bits) t (n + 1)) :
    driveBitAt tr p v t = ⟨none, t + p.cellHigh v + Config.guardCyc, cellWave p v⟩ := by
  obtain ⟨h1, h2⟩ := h 0 v (Nat.succ_pos n) rfl
  rw [cellBegin_cons] at h2
  exact driveBitAt_free tr p v t h1 h2

theorem ChecksHigh.tail {tr : Nat → Bool} {p : Timing} {v : Bool} {bits : List Bool} {t n : Nat}
    (h : ChecksHigh tr p (v :: bits) t (n + 1)) : ChecksHigh tr p bits (t + p.cellHigh v + Config.guardCyc) n := by
  intro j w hj hw
  have := h (j + 1) w (Nat.succ_lt_succ hj) hw
  simpa only [cellBegin_cons, Nat.add_assoc] using this

/-- Cells whose checks find the line high are driven whole, and the drive goes on with the next. -/
theorem driveCellsAt_of_checksHigh {tr : Nat → Bool} {p : Timing} {bits : List Bool} {t n : Nat}
    (h : ChecksHigh tr p bits t n) (hn : n ≤ bits.length) :
    driveCellsAt tr p bits t = (driveCellsAt tr p (bits.drop n) (t + cellBegin p bits n)).after n
      ((bits.take n).flatMap (cellWave p)) := by
  induction n generalizing bits t with
  | zero => simp [cellBegin]
  | succ n ih =>
    cases bits with
    | nil => simp at hn
    | cons v bits =>
      rw [driveCellsAt_cons_free (by rw [h.head]), h.head, ih h.tail (by simpa using hn), cellBegin_cons]
      simp [Nat.add_assoc]

/-- With no check low every cell is driven. -/
theorem driveCellsAt_all {tr : Nat → Bool} {p : Timing} {bits : List Bool} {t : Nat}
    (h : ChecksHigh tr p bits t bits.length) :
    driveCellsAt tr p bits t = ⟨none, t + cellBegin p bits bits.length, bits.flatMap (cellWave p)⟩ := by
  rw [driveCellsAt_of_checksHigh h (Nat.le_refl _)]
  simp [driveCellsAt, ByteDrive.after]

section
variable {tr : Nat → Bool} {p : Timing} {bits : List Bool} {t k : Nat} {v : Bool}

/-- The drive up to cell `k`, and that cell. -/
theorem driveCellsAt_upto (hk : bits[k]? = some v) (h : ChecksHigh tr p bits t k) :
    driveCellsAt tr p bits t = (driveCellsAt tr p (v :: bits.drop (k + 1)) (t + cellBegin p bits k)).after k
      ((bits.take k).flatMap (cellWave p)) := by
  obtain ⟨hlt, rfl⟩ := List.getElem?_eq_some_iff.mp hk
  rw [driveCellsAt_of_checksHigh h (Nat.le_of_lt hlt), List.drop_eq_getElem_cons hlt]

/-- A low check 1 ends the drive with the high phase of its cell (40_bit_codec.md R148). -/
theorem driveCellsAt_check1 (hk : bits[k]? = some v) (h : ChecksHigh tr p bits t k)
    (h1 : tr (t + cellBegin p bits k + p.cellHigh v - 1) = false) :
    driveCellsAt tr p bits t = ⟨some (.afterHigh, k), t + cellBegin p bits k + p.cellHigh v,
      (bits.take k).flatMap (cellWave p) ++ List.replicate (p.cellHigh v) false⟩ := by
  have hd := driveBitAt_check1 h1
  rw [driveCellsAt_upto hk h, driveCellsAt_cons_hit (by rw [hd]), hd]
  simp [ByteDrive.after]

/-- A low check 2 ends the drive with the guard of its cell (40_bit_codec.md R149). -/
theorem driveCellsAt_check2 (hk : bits[k]? = some v) (h : ChecksHigh tr p bits t k)
    (h1 : tr (t + cellBegin p bits k + p.cellHigh v - 1) = true) (h2 : tr (t + cellBegin p bits (k + 1)) = false) :
    driveCellsAt tr p bits t = ⟨some (.afterGuard, k), t + cellBegin p bits (k + 1),
      (bits.take (k + 1)).flatMap (cellWave p)⟩ := by
  have hend : t + cellBegin p bits k + p.cellHigh v + Config.guardCyc = t + cellBegin p bits (k + 1) := by
    rw [cellBegin_succ p hk]; omega
  have hd := driveBitAt_cell h1
  rw [hend, if_pos h2] at hd
  rw [driveCellsAt_upto hk h, driveCellsAt_cons_hit (by rw [hd]), hd]
  simp [ByteDrive.after, List.take_add_one, hk]

end

/-! ### SEND_BYTE -/

/-- The answer of SEND_BYTE when the drive of its cells is known. -/
theorem exec_sendByte_of_eq {s : State} {b : Byte} {d : ByteDrive}
    (h : driveCellsAt s.releasedAt s.timing (bitsOf [b]) s.cycle = d) :
    ∃ t, exec (.sendByte b) s = .next t ∧ OnlyLineDriven s t ∧ t.cycle = d.tNext
      ∧ t.drvTrace = d.wave.reverse ++ s.drvTrace
      ∧ t.replies = ⟨t.cycle, 0x29, .driven d.hit.isSome t.cycle⟩ :: s.replies := by
  have hlen := sendByteAt_length s.releasedAt s.timing b s.cycle
  rw [sendByteAt_eq, h] at hlen
  refine ⟨_, rfl, s.driveWave_reply_onlyLineDriven _ _ _, ?_⟩
  simp [sendByteAt_eq, h, ← hlen]

/-- Settles O28: the drive of eight cells, to its end or to its first failing check. -/
theorem sendByteDrivesUpToACollision : Obligations.SendByteDrivesUpToACollision := by
  intro s b start check1 check2
  refine ⟨fun hall => ?all, fun k v hk hbefore => ⟨fun h1 => ?high, fun h1 h2 => ?guard⟩⟩
  case all =>
    have h := exec_sendByte_of_eq (driveCellsAt_all fun j w _ hw => hall j w hw)
    rwa [cellBegin_length] at h
  case high =>
    simpa using exec_sendByte_of_eq (driveCellsAt_check1 hk hbefore h1)
  case guard =>
    exact exec_sendByte_of_eq (driveCellsAt_check2 hk hbefore h1 h2)

/-! ### SEND_FRAME -/

/-- The event of the collision a drive ended in, if it ended in one (43_transmission.md R205). -/
def FrameDrive.raised (o : FrameDrive) : List Raised :=
  match o.hit with
  | some (c, j, i) => [⟨collisionCycle c o.tEnd, collisionEvent c j i⟩]
  | none => []

theorem State.raiseCollision_eq (s : State) (o : FrameDrive) :
    s.raiseCollision o = { s with events := o.raised ++ s.events } := by
  obtain ⟨hit, tEnd, wave⟩ := o
  cases hit <;> rfl

/-- `t` is `s` after a drive of SEND_FRAME: beside time, DRV_LOW, TX_BYTEIDX, TX_BITIDX and events are written. -/
def OnlyFrameSent (s t : State) : Prop :=
  t = { s with
    drvLow := false
    txByteidx := t.txByteidx
    txBitidx := t.txBitidx
    linePrev := t.linePrev
    cycle := t.cycle
    inputs := t.inputs
    drvTrace := t.drvTrace
    events := t.events
    replies := t.replies } ∧ SameStorage s t

/-- What SEND_FRAME leaves, by its drive. -/
structure EndsFrame (s t : State) (b : List Byte) (o : FrameDrive) : Prop where
  only : OnlyFrameSent s t
  cycle : t.cycle = o.tEnd
  drvTrace : t.drvTrace = o.wave.reverse ++ s.drvTrace
  events : t.events = o.raised ++ s.events
  replies : t.replies = ⟨t.cycle, 0x2A, .driven o.hit.isSome t.cycle⟩ :: s.replies
  txByteidx : t.txByteidx = BitVec.ofNat 8 (o.lastCell b).1
  txBitidx : t.txBitidx = BitVec.ofNat 3 (o.lastCell b).2

theorem exec_sendFrame (s : State) (b : List Byte) :
    ∃ t, exec (.sendFrame b) s = .next t ∧ EndsFrame s t b (sendFrameAt s.releasedAt s.timing b s.cycle) := by
  have hlen : (sendFrameAt s.releasedAt s.timing b s.cycle).tEnd
      = s.cycle + (sendFrameAt s.releasedAt s.timing b s.cycle).wave.length := sendBytesAt_length _ _ _ _ _
  refine ⟨_, rfl, ?_⟩
  generalize sendFrameAt s.releasedAt s.timing b s.cycle = o at hlen ⊢
  rw [State.raiseCollision_eq]
  constructor
  case only =>
    have hpass := congrArg (fun u : State => { u with drvLow := false }) (s.passWave_onlyTimePassed o.wave).1
    rw [State.driveWave, hpass]
    exact ⟨rfl, fun store i => rfl⟩
  case cycle | replies => simp [hlen]
  case drvTrace | events => simp
  case txByteidx | txBitidx => rfl

/-- The answer of SEND_FRAME when the drive of its cells ends in a collision in cell `k`: the failing byte is `k / 8`, its
bit `7 - k % 8` (43_transmission.md R205). -/
theorem exec_sendFrame_of_hit {s : State} {b : List Byte} {c : Check} {k tEnd : Nat} {wave : List Bool}
    (hb : isFrameBytes b = true)
    (h : driveCellsAt s.releasedAt s.timing (bitsOf b) s.cycle = ⟨some (c, k), tEnd, wave⟩) :
    ∃ t, exec (.sendFrame b) s = .next t ∧ OnlyFrameSent s t ∧ t.cycle = tEnd
      ∧ t.drvTrace = wave.reverse ++ s.drvTrace
      ∧ t.events = ⟨collisionCycle c t.cycle, collisionEvent c (k / 8) (7 - k % 8)⟩ :: s.events
      ∧ t.replies = ⟨t.cycle, 0x2A, .driven true t.cycle⟩ :: s.replies
      ∧ t.txByteidx.toNat = k / 8 ∧ t.txBitidx.toNat = 7 - k % 8 := by
  obtain ⟨t, hexec, ht⟩ := exec_sendFrame s b
  have hk : k < 8 * b.length := length_bitsOf b ▸ driveCellsAt_hit_lt (congrArg ByteDrive.hit h)
  have hlen := length_lt_of_isFrameBytes hb
  have hframe : sendFrameAt s.releasedAt s.timing b s.cycle = ⟨some (c, k / 8, 7 - k % 8), tEnd, wave⟩ := by
    simp [sendFrameAt_eq, h, cellInFrame]
  rw [hframe] at ht
  refine ⟨t, hexec, ht.only, ht.cycle, ht.drvTrace, ht.cycle ▸ ht.events, ht.replies, ?_, ?_⟩
  · rw [ht.txByteidx]
    exact Nat.mod_eq_of_lt (show k / 8 < 256 by omega)
  · rw [ht.txBitidx]
    exact Nat.mod_eq_of_lt (show 7 - k % 8 < 8 by omega)

/-- Settles O29: the drive of the frame's cells, to its end or to its first failing check. -/
theorem sendFrameDrivesUpToACollision : Obligations.SendFrameDrivesUpToACollision := by
  constructor
  · intro s b hb start hall
    obtain ⟨t, hexec, ht⟩ := exec_sendFrame s b
    have hlen := length_lt_of_isFrameBytes hb
    rw [sendFrameAt_eq, driveCellsAt_all fun j w _ hw => hall j w hw, cellBegin_length] at ht
    obtain ⟨heq, hstore⟩ := ht.only
    rw [ht.events] at heq
    refine ⟨t, hexec, ht.cycle, ht.drvTrace, ht.replies, ?_, ht.txBitidx, heq, hstore⟩
    rw [ht.txByteidx]
    exact Nat.mod_eq_of_lt (show b.length - 1 < 256 by omega)
  · intro s b k v hb hk start check1 check2 sent hbefore
    refine ⟨fun h1 => ?high, fun h1 h2 => ?guard⟩
    case high =>
      obtain ⟨t, hexec, honly, hcycle, htrace, hrest⟩ :=
        exec_sendFrame_of_hit hb (driveCellsAt_check1 hk hbefore h1)
      exact ⟨t, hexec, hcycle, honly, by simpa using htrace, hrest⟩
    case guard =>
      obtain ⟨t, hexec, honly, hcycle, htrace, hrest⟩ :=
        exec_sendFrame_of_hit hb (driveCellsAt_check2 hk hbefore h1 h2)
      exact ⟨t, hexec, hcycle, honly, htrace, hrest⟩

end Sys2Proof.Machine
end

section
/-! SUPPORT. Obligations O16, O17, O18 and O20: the frame format. SERIALIZE and DESERIALIZE are inverse to each other between
well-formed frames and sequences of their tag's length; VALIDATE of a generic frame looks for a terminator. -/

namespace Sys2Proof.Machine

/-! ### The length a tag gives -/

theorem frameLen_eq (t : Byte) : frameLen t = if t.toNat = 0 then 12 else t.toNat := by
  have hzero : t = 0 ↔ t.toNat = 0 := BitVec.toNat_eq
  simp only [frameLen, hzero]

/-- Settles O16: the tag 0 is the one byte of value 0. -/
theorem headerGivesTheFrameLength : Obligations.HeaderGivesTheFrameLength := by
  intro t s
  rw [← frameLen_eq]
  rfl

theorem isFrameBytes_cons (t : Byte) (r : List Byte) : isFrameBytes (t :: r) = true ↔ r.length + 1 = frameLen t :=
  decide_eq_true_iff

/-- A sequence that is a frame passes the length test: no tag gives more than 255 bytes. -/
theorem fitsTag_eq_isFrameBytes (b : List Byte) : fitsTag b = isFrameBytes b := by
  rw [Bool.eq_iff_iff, fitsTag_iff]
  cases b with
  | nil => simp [isFrameBytes]
  | cons t r =>
    rw [isFrameBytes_cons]
    exact ⟨fun ⟨_, _, h, hlen⟩ => by cases h; exact hlen, fun hlen => ⟨t, r, rfl, hlen⟩⟩

/-! ### SERIALIZE and DESERIALIZE -/

theorem exec_serialize (F : Frame) (s : State) : exec (.serialize F) s =
    .next { s with replies := ⟨s.cycle, 0x11, .serialized (serialize F)⟩ :: s.replies } := rfl

theorem exec_deserialize (b : List Byte) (s : State) : exec (.deserialize b) s =
    .next { s with replies := ⟨s.cycle, 0x12, .deserialized (deserialize b)⟩ :: s.replies } := rfl

/-- A length that does not fit the tag is Malformed, whatever the shape (41_frame_format.md R163). -/
theorem deserialize_malformed {t : Byte} {r : List Byte} (h : r.length + 1 ≠ frameLen t) :
    deserialize (t :: r) = none := if_pos h

theorem deserialize_generic {t : Byte} {r : List Byte} (ht : t ≠ 0) (h : r.length + 1 = t.toNat) :
    deserialize (t :: r) = some (.generic t r) := by
  have hlen : ¬ r.length + 1 ≠ frameLen t := fun hne => hne (h.trans (frameLen_of_ne_zero ht).symm)
  exact (if_neg hlen).trans (if_neg ht)

theorem wellFormed_generic (len : Byte) (body : List Byte) :
    (Frame.generic len body).wellFormed = true ↔ len ≠ 0 ∧ body.length + 1 = len.toNat := by
  simp only [Frame.wellFormed, Bool.and_eq_true, decide_eq_true_eq]

/-- A sequence of the tag's length is the serialization of the well-formed frame it is read as. -/
theorem deserialize_of_isFrameBytes {b : List Byte} (h : isFrameBytes b = true) :
    ∃ F, deserialize b = some F ∧ F.wellFormed = true ∧ serialize F = b := by
  cases b with
  | nil => cases h
  | cons t r =>
    have hlen := (isFrameBytes_cons t r).mp h
    by_cases ht : t = 0
    · subst ht
      have h11 : r.length = 11 := Nat.succ.inj hlen
      match r, h11 with
      | [src, dst, opc, d0, d1, d2, d3, d4, d5, pad, chk], _ => exact ⟨_, rfl, rfl, rfl⟩
    · have hlen' : r.length + 1 = t.toNat := hlen.trans (frameLen_of_ne_zero ht)
      exact ⟨_, deserialize_generic ht hlen', (wellFormed_generic ..).mpr ⟨ht, hlen'⟩, rfl⟩

/-- A well-formed frame is serialized to a sequence of its tag's length. -/
theorem isFrameBytes_serialize {F : Frame} (h : F.wellFormed = true) : isFrameBytes (serialize F) = true := by
  cases F with
  | structured f =>
    have hsoh : f.soh = 0 := of_decide_eq_true h
    rw [serialize, isFrameBytes_cons, hsoh]
    rfl
  | generic len body =>
    obtain ⟨hlen, hbody⟩ := (wellFormed_generic ..).mp h
    exact (isFrameBytes_cons ..).mpr (hbody.trans (frameLen_of_ne_zero hlen).symm)

/-- A well-formed frame is read back from its serialization. -/
theorem deserialize_serialize {F : Frame} (h : F.wellFormed = true) : deserialize (serialize F) = some F := by
  cases F with
  | structured f =>
    obtain ⟨soh, src, dst, opc, data, pad, chk⟩ := f
    obtain rfl : soh = 0 := of_decide_eq_true h
    rfl
  | generic len body =>
    obtain ⟨hlen, hbody⟩ := (wellFormed_generic ..).mp h
    exact deserialize_generic hlen hbody

/-- Settles O17: a well-formed frame is read back from its bytes, and a sequence of its tag's length is written again. -/
theorem framesRoundTrip : Obligations.FramesRoundTrip := by
  refine ⟨fun F s hF => ⟨serialize F, exec_serialize F s, isFrameBytes_serialize hF, ?_⟩, fun b s hb => ?_⟩
  · rw [exec_deserialize, deserialize_serialize hF]
  · obtain ⟨F, hread, hF, hwrite⟩ := deserialize_of_isFrameBytes hb
    refine ⟨F, ?_, hF, ?_⟩
    · rw [exec_deserialize, hread]
    · rw [exec_serialize, hwrite]

/-- Settles O18: the fields as they stand, and by byte 0 the shape or Malformed. -/
theorem serializeCopiesDeserializeChecks : Obligations.SerializeCopiesDeserializeChecks := by
  intro s
  refine ⟨fun soh src dst opc d0 d1 d2 d3 d4 d5 pad chk => exec_serialize _ s, fun len body => exec_serialize _ s,
    fun src dst opc d0 d1 d2 d3 d4 d5 pad chk => exec_deserialize _ s, fun x r hx hlen => ?generic,
    fun x r _ hlen => ?malformed⟩
  case generic => rw [exec_deserialize, deserialize_generic hx hlen]
  case malformed =>
    rw [← frameLen_eq] at hlen
    rw [exec_deserialize, deserialize_malformed hlen]

/-! ### VALIDATE -/

/-- VALIDATE runs its checks on a sequence of the tag's length, and on no other (45_host_ops.md R261). -/
theorem exec_validate (b : List Byte) (s : State) : exec (.validate b) s = .next { s with replies :=
    ⟨s.cycle, 0x13, if isFrameBytes b then .violations .ok (some (validate b)) else .violations .eLength none⟩
      :: s.replies } := by
  rw [← fitsTag_eq_isFrameBytes]
  rfl

/-- The bytes a terminator may stand among are those from index 2 on (41_frame_format.md R167). -/
theorem contains_drop_two_iff (b : List Byte) : (b.drop 2).contains 0 = true ↔ ∃ i, 2 ≤ i ∧ b[i]? = some 0 := by
  rw [List.contains_iff_mem, List.mem_iff_getElem?]
  simp only [List.getElem?_drop]
  constructor
  · rintro ⟨i, hi⟩
    exact ⟨2 + i, Nat.le_add_right 2 i, hi⟩
  · rintro ⟨i, hle, hi⟩
    exact ⟨i - 2, by rwa [Nat.add_sub_cancel' hle]⟩

/-- Settles O20: the generic check is made of a sequence of its tag's length, and E_LENGTH answers any other. -/
theorem validateGenericAndWrongLengths : Obligations.ValidateGenericAndWrongLengths := by
  intro b s
  have generic : b.headD 0 ≠ 0 → validate b = validateGen b := fun h => if_neg h
  refine ⟨fun hb hne hterm => ?terminated, fun hb hne hunterm => ?unterminated, fun hb => ?wrongLength⟩ <;>
    rw [exec_validate, hb]
  case terminated =>
    have hc := (contains_drop_two_iff b).mpr hterm
    rw [if_pos rfl, generic hne, validateGen, hc]
    rfl
  case unterminated =>
    have hc : (b.drop 2).contains 0 = false := by
      rw [Bool.eq_false_iff, Ne, contains_drop_two_iff]
      exact fun ⟨i, hi, h0⟩ => hunterm i hi h0
    rw [if_pos rfl, generic hne, validateGen, hc]
    rfl
  case wrongLength => rfl

end Sys2Proof.Machine
end

section
/-! SUPPORT. Obligation O25: a receiver on a line that carries a sender's waveform. Each SAMPLE_BIT ends where its cell's high
phase does, so the guard of one cell is the low phase that the next SAMPLE_BIT waits out. -/

namespace Sys2Proof.Machine

/-! ### Waveforms on the line -/

/-- What is on the line between two high phases of cells (30_encoding.md R104). -/
abbrev guardWave : List Bool := List.replicate Config.guardCyc true

theorem carries_append (tr : Nat → Bool) (t : Nat) (v w : List Bool) :
    carries tr t (v ++ w) ↔ carries tr t v ∧ carries tr (t + v.length) w := by
  constructor
  · refine fun h => ⟨fun k d hk => ?_, fun k d hk => ?_⟩
    · obtain ⟨hlt, -⟩ := List.getElem?_eq_some_iff.mp hk
      exact h k d (by rwa [List.getElem?_append_left hlt])
    · rw [Nat.add_assoc]
      refine h (v.length + k) d ?_
      rwa [List.getElem?_append_right (Nat.le_add_right ..), Nat.add_sub_cancel_left]
  · rintro ⟨hv, hw⟩ k d hk
    by_cases hlt : k < v.length
    · exact hv k d (by rwa [List.getElem?_append_left hlt] at hk)
    · rw [List.getElem?_append_right (by omega)] at hk
      have := hw _ d hk
      rwa [show t + v.length + (k - v.length) = t + k by omega] at this

theorem carries_replicate (tr : Nat → Bool) (t n : Nat) (d : Bool) :
    carries tr t (List.replicate n d) ↔ ∀ k, k < n → tr (t + k) = !d := by
  simp only [carries, List.getElem?_replicate, Option.ite_none_right_eq_some, Option.some.injEq]
  exact ⟨fun h k hk => h k d ⟨hk, rfl⟩, fun h k _ ⟨hk, hd⟩ => hd ▸ h k hk⟩

theorem length_bitsWave_succ (p : Timing) (x : Byte) (k : Nat) : (bitsWave p x (k + 1)).length
    = p.cellHigh (x.getLsbD k) + Config.guardCyc + (bitsWave p x k).length := by
  rw [bitsWave, List.length_append, cellWave_length]

/-- A byte that agrees with `x` above bit `k` does so from bit `k` on when it takes that bit. -/
theorem setBit_agrees {b x : Byte} {k : Nat} (hk : k < 8) (h : ∀ j, k + 1 ≤ j → b.getLsbD j = x.getLsbD j) :
    ∀ j, k ≤ j → (setBit b k (x.getLsbD k)).getLsbD j = x.getLsbD j := by
  intro j hj
  rw [setBit_getLsbD _ _ _ _ hk]
  split
  · next heq => rw [heq]
  · exact h j (by omega)

/-- After a preamble whose phases are within their bounds the bit cells are read (42_reception.md R182 to R185). -/
theorem rxFrameAt_of_preamble {tr : Nat → Bool} {p : Timing} {t n m k : Nat}
    (hn : n ≤ p.lowTmo) (hsync : ∀ j, j < n → tr (t + j) = false)
    (hm : 0 < m) (hmin : p.syncHighMin ≤ m) (hmax : m ≤ p.highTmo) (hhigh : ∀ j, j < m → tr (t + n + j) = true)
    (hk : 0 < k) (hkmax : k ≤ p.lowTmo) (hlow : ∀ j, j < k → tr (t + n + m + j) = false)
    (hcell : tr (t + n + m + k) = true) :
    rxFrameAt tr p t = rxBodyAt tr p (t + n + m + k) := by
  have hrise : tr (t + n) = true := hhigh 0 hm
  have hfall : tr (t + n + m) = false := hlow 0 hk
  have syncRun : runLen tr false (p.lowTmo + 1) t = n := runLen_eq tr false (by omega) hsync (by simp [hrise])
  have highRun : runLen tr true (p.highTmo + 1) (t + n) = m := runLen_eq tr true (by omega) hhigh (by simp [hfall])
  have lowRun : runLen tr false (p.lowTmo + 1) (t + n + m) = k := runLen_eq tr false (by omega) hlow (by simp [hcell])
  simp only [rxFrameAt, syncRun, highRun, lowRun]
  rw [if_neg (by omega), if_neg (by omega), if_neg (by omega), if_neg (by omega)]

/-! ### A legal profile -/

theorem Timing.cellHigh_le (p : Timing) (v : Bool) : p.cellHigh v ≤ p.highTmo := by
  cases v <;>
    simp only [Timing.cellHigh, Timing.highTmo, Config.highTmoUnits, if_true, Bool.false_eq_true, if_false] <;> omega

section
variable {p : Timing} (legal : p.legal)
include legal

theorem Timing.legal.guard_le : Config.guardCyc ≤ p.lowTmo := by
  show 150 ≤ 10 * p.delta
  have := legal.1
  omega

theorem Timing.legal.cellHigh_pos (v : Bool) : 0 < p.cellHigh v := by
  have := legal.1
  cases v <;> simp only [Timing.cellHigh, if_true, Bool.false_eq_true, if_false] <;> omega

/-- A bit sent is the bit read: DELTA is within WMAX = DELTA + TOL, and 2 * DELTA is not (40_bit_codec.md R142, R143). -/
theorem Timing.legal.classify_cellHigh (v : Bool) : p.classify (p.cellHigh v) = v := by
  obtain ⟨-, -, htol, -, hwmax⟩ := legal
  cases v <;>
    simp only [Timing.classify, Timing.cellHigh, if_true, Bool.false_eq_true, if_false, decide_eq_true_eq,
      decide_eq_false_iff_not] <;> omega

/-! ### Cells -/

/-- A cell after a low phase of `g` cycles is read as its bit; the guard is still to come when its SAMPLE_BIT ends. -/
theorem sampleBitAt_cellWave {tr : Nat → Bool} {t g : Nat} {v : Bool} {w : List Bool} (hg : g ≤ p.lowTmo)
    (h : carries tr t (List.replicate g true ++ (cellWave p v ++ w))) :
    sampleBitAt tr p t = ⟨.bit v, p.cellHigh v, t + g + p.cellHigh v⟩
      ∧ carries tr (t + g + p.cellHigh v) (guardWave ++ w) := by
  rw [cellWave, List.append_assoc, carries_append, carries_append, carries_replicate, carries_replicate] at h
  simp only [List.length_replicate] at h
  obtain ⟨hlow, hhigh, hguard⟩ := h
  have hfall : tr (t + g + p.cellHigh v) = false := hguard 0 true rfl
  have hbit := sampleBitAt_bit tr p hg hlow (legal.cellHigh_pos v) (p.cellHigh_le v) hhigh hfall
  rw [legal.classify_cellHigh] at hbit
  exact ⟨hbit, hguard⟩

/-- The next cell gives the next bit of the byte, and leaves the others. -/
theorem sampleBitsAt_cellWave {tr : Nat → Bool} {t g k : Nat} {v : Bool} {w : List Bool} (b : Byte) (hg : g ≤ p.lowTmo)
    (h : carries tr t (List.replicate g true ++ (cellWave p v ++ w))) :
    sampleBitsAt tr p (k + 1) t b = sampleBitsAt tr p k (t + g + p.cellHigh v) (setBit b k v)
      ∧ carries tr (t + g + p.cellHigh v) (guardWave ++ w) := by
  obtain ⟨hbit, hrest⟩ := sampleBitAt_cellWave legal hg h
  exact ⟨by simp only [sampleBitsAt, hbit], hrest⟩

/-- The cells of the last `k` bits of `x` complete a byte that has the bits of `x` above them. Each is read in as many cycles
as it is driven in, a guard earlier. -/
theorem sampleBitsAt_bitsWave {tr : Nat → Bool} {x b : Byte} {k t : Nat} {w : List Bool} (hk : k ≤ 8)
    (hb : ∀ j, k ≤ j → b.getLsbD j = x.getLsbD j) (h : carries tr t (guardWave ++ (bitsWave p x k ++ w))) :
    sampleBitsAt tr p k t b = ⟨.byte x, t + (bitsWave p x k).length⟩
      ∧ carries tr (t + (bitsWave p x k).length) (guardWave ++ w) := by
  induction k generalizing t b with
  | zero =>
    have hbx : b = x := BitVec.eq_of_getLsbD_eq fun j _ => hb j (Nat.zero_le j)
    exact ⟨by rw [hbx]; rfl, h⟩
  | succ k ih =>
    rw [bitsWave, List.append_assoc] at h
    obtain ⟨hbit, hrest⟩ := sampleBitsAt_cellWave legal b legal.guard_le h
    have hend : t + (bitsWave p x (k + 1)).length
        = t + Config.guardCyc + p.cellHigh (x.getLsbD k) + (bitsWave p x k).length := by
      rw [length_bitsWave_succ]
      omega
    rw [hbit, hend]
    exact ih (by omega) (setBit_agrees hk hb) hrest

/-! ### Bytes -/

/-- A byte after a low phase of `g` cycles, which is no guard before the first byte. -/
theorem sampleByteAt_bitsWave {tr : Nat → Bool} {x : Byte} {t g : Nat} {w : List Bool} (hg : g ≤ p.lowTmo)
    (h : carries tr t (List.replicate g true ++ (bitsWave p x 8 ++ w))) :
    ∃ e, e + Config.guardCyc = t + g + (bitsWave p x 8).length
      ∧ sampleByteAt tr p t = ⟨.byte x, e⟩ ∧ carries tr e (guardWave ++ w) := by
  rw [bitsWave, List.append_assoc] at h
  obtain ⟨hbit, hrest⟩ := sampleBitsAt_cellWave (k := 7) legal 0 hg h
  have habove : ∀ j, 7 + 1 ≤ j → (0 : Byte).getLsbD j = x.getLsbD j := fun j hj => by
    rw [BitVec.getLsbD_of_ge _ _ hj, BitVec.getLsbD_of_ge _ _ hj]
  obtain ⟨hbits, hrest⟩ := sampleBitsAt_bitsWave legal (by omega) (setBit_agrees (by omega) habove) hrest
  refine ⟨_, ?_, hbit.trans hbits, hrest⟩
  have hlen : (bitsWave p x 8).length = _ := length_bitsWave_succ p x 7
  omega

/-- The bytes that follow a byte of a frame are captured as they were sent (42_reception.md R186). -/
theorem rxBytesAt_bytesWave {tr : Nat → Bool} {r got : List Byte} {t : Nat}
    (h : carries tr t (guardWave ++ bytesWave p r)) :
    rxBytesAt tr p r.length t got = ⟨.complete, t + (bytesWave p r).length, got ++ r⟩ := by
  induction r generalizing t got with
  | nil => simp [rxBytesAt, bytesWave]
  | cons x r ih =>
    obtain ⟨e, he, hbyte, hrest⟩ := sampleByteAt_bitsWave legal legal.guard_le h
    have hend : e + (bytesWave p r).length = t + (bytesWave p (x :: r)).length := by
      rw [bytesWave, List.length_append]
      omega
    rw [List.length_cons, rxBytesAt, hbyte]
    simp only [ih hrest, hend, List.append_assoc, List.singleton_append]

/-! ### Frames -/

/-- The cells of a frame are captured as its bytes: the tag announces as many as follow it (42_reception.md R185, R186). -/
theorem rxBodyAt_bytesWave {tr : Nat → Bool} {b : List Byte} {t : Nat} (hb : isFrameBytes b = true)
    (h : carries tr t (bytesWave p b)) :
    ∃ e, e + Config.guardCyc = t + cellsLength p b ∧ rxBodyAt tr p t = ⟨.complete, e, b⟩ := by
  cases b with
  | nil => cases hb
  | cons x r =>
    have hlen : r.length = frameLen x - 1 := Nat.eq_sub_of_add_eq ((isFrameBytes_cons x r).mp hb)
    obtain ⟨e, he, hbyte, hrest⟩ := sampleByteAt_bitsWave (g := 0) legal (Nat.zero_le _) h
    refine ⟨e + (bytesWave p r).length, ?_, ?_⟩
    · rw [← bytesWave_length, bytesWave, List.length_append]
      omega
    · simp only [rxBodyAt, hbyte, ← hlen]
      exact rxBytesAt_bytesWave legal hrest

/-- The line is released in the first cycle of a frame's cells. -/
theorem high_of_carries_bytesWave {tr : Nat → Bool} {b : List Byte} {t : Nat} (hb : isFrameBytes b = true)
    (h : carries tr t (bytesWave p b)) : tr t = true := by
  cases b with
  | nil => cases hb
  | cons x r =>
    simp only [bytesWave, bitsWave, cellWave, List.append_assoc] at h
    exact (carries_replicate ..).mp ((carries_append ..).mp h).1 0 (legal.cellHigh_pos _)

/-- A frame on the line is captured byte for byte, and its capture ends where the last high phase does
(42_reception.md R181). -/
theorem rxFrameAt_frameWave {tr : Nat → Bool} {b : List Byte} {t n : Nat} (hb : isFrameBytes b = true)
    (hn : n ≤ p.lowTmo) (h : carries tr t (frameWave p n b)) :
    ∃ e, e + Config.guardCyc = t + n + 2 * p.bitSync + cellsLength p b
      ∧ rxFrameAt tr p t = ⟨.complete, e, b⟩ := by
  have hpos : 0 < p.bitSync := Nat.mul_pos (by decide) (Nat.lt_of_lt_of_le (by decide) legal.1)
  have hmin : p.syncHighMin ≤ p.bitSync := Nat.mul_le_mul_right _ (by decide)
  have hmax : p.bitSync ≤ p.highTmo := Nat.mul_le_mul_right _ (by decide)
  have hlowTmo : p.bitSync ≤ p.lowTmo := Nat.mul_le_mul_right _ (by decide)
  simp only [frameWave, startWave, syncWave, bitSyncWave, carries_append, carries_replicate, List.length_append,
    List.length_replicate, ← Nat.add_assoc] at h
  obtain ⟨⟨hsync, hhigh, hlow⟩, hcells⟩ := h
  obtain ⟨e, he, hbody⟩ := rxBodyAt_bytesWave legal hb hcells
  refine ⟨e, by omega, ?_⟩
  rw [rxFrameAt_of_preamble hn hsync hpos hmin hmax hhigh hpos hlowTmo hlow
    (high_of_carries_bytesWave legal hb hcells), hbody]

end

/-! ### The operation -/

/-- The end of a reception that came to a whole capture: pushed when RING has room for it, dropped otherwise
(42_reception.md R189, R191). -/
theorem State.endCapture_eq (s0 s : State) (b : List Byte) : State.endCapture s0 s b =
    { s with ring := if s0.ringRoom b then s.ring ++ [b] else s.ring }.endReception
      (if s0.ringRoom b then .rxPushed b else .ringFull b) := by
  cases h : s0.ringRoom b <;> simp [State.endCapture, h]

/-- What RX_FRAME leaves when its trace gives a whole capture. -/
theorem exec_rxFrame_of_complete {s : State} {b : List Byte} {e : Nat} (htrig : s.trig = true) (hle : s.cycle ≤ e)
    (h : rxFrameAt s.lineAt s.timing s.cycle = ⟨.complete, e, b⟩) :
    ∃ t, exec .rxFrame s = .next t ∧ t.cycle = e + 1 ∧ t.notify = true ∧ t.rxActive = false
      ∧ t.ring = (if s.ringRoom b then s.ring ++ [b] else s.ring)
      ∧ t.events = ⟨e, if s.ringRoom b then .rxPushed b else .ringFull b⟩ :: s.events := by
  have hroom : ∀ n, ((s.takeEdge.passIdle n).storeCapture b).ringRoom b = s.ringRoom b := fun n => by
    simp [State.ringRoom, State.storeCapture]
  simp only [exec, execRxFrame, htrig, if_true, h, State.endCapture_eq, hroom]
  refine ⟨_, rfl, ?_⟩
  simp [State.storeCapture, Nat.add_sub_cancel' hle]

/-- Settles O25: the preamble's phases are within their bounds, the cells are read as the frame, and RING takes it if it
has room. -/
theorem framesRoundTripOnTheWire : Obligations.FramesRoundTripOnTheWire := by
  intro s b n htrig legal hb _ hn hwire
  obtain ⟨e, he, htrace⟩ := rxFrameAt_frameWave legal hb hn hwire
  rw [two_mul_bitSync] at he
  have hguard : Config.guardCyc = 150 := rfl
  have hdelta : 15 ≤ s.tpDelta.toNat := legal.1
  have hle : s.cycle ≤ e := by omega
  obtain ⟨t, hexec, hcycle, hnotify, hactive, hring, hevents⟩ := exec_rxFrame_of_complete htrig hle htrace
  have hlast : t.cycle - 1 = e := by omega
  refine ⟨t, hexec, by omega, hnotify, hactive, fun hroom => ?_, fun hfull => ?_⟩
  · have : s.ringRoom b = true := decide_eq_true hroom
    simp [hring, hevents, this, hlast]
  · have : s.ringRoom b = false := decide_eq_false (Nat.not_le.mpr hfull)
    simp [hring, hevents, this, hlast]

end Sys2Proof.Machine
end

section
/-! SUPPORT. The ends of a reception, by its runs: each phase of RX_FRAME either outlasts its bound or leaves its level within
it, and so does each phase of a SAMPLE_BIT. -/

namespace Sys2Proof.Machine

/-! ### Runs within a bound -/

/-- A line stays at a level past a bound, or leaves it within the bound. -/
theorem stays_or_leaves (tr : Nat → Bool) (lvl : Bool) (bound t : Nat) :
    (∀ k, k < bound + 1 → tr (t + k) = lvl)
    ∨ ∃ n, n ≤ bound ∧ (∀ k, k < n → tr (t + k) = lvl) ∧ tr (t + n) = !lvl := by
  rcases Nat.eq_or_lt_of_le (runLen_le tr lvl (bound + 1) t) with hfull | hlt
  · exact .inl fun k hk => runLen_level tr lvl _ t k (hfull ▸ hk)
  · exact .inr ⟨_, Nat.le_of_lt_succ hlt, runLen_level tr lvl _ t, Bool.eq_not.mpr (runLen_stop tr lvl _ t hlt)⟩

/-- A run that another level ends holds a cycle when it begins at its own level. -/
theorem run_pos {tr : Nat → Bool} {lvl : Bool} {t n : Nat} (h : tr t = lvl) (hend : tr (t + n) = !lvl) : 0 < n := by
  refine Nat.pos_of_ne_zero fun h0 => ?_
  subst h0
  rw [Nat.add_zero, h] at hend
  simp at hend

/-! ### SAMPLE_BIT -/

/-- How SAMPLE_BIT ends, with the widths that decide it (40_bit_codec.md R141 to R145). -/
theorem sampleBitAt_ends (tr : Nat → Bool) (p : Timing) (t : Nat) :
    ((∀ k, k < p.lowTmo + 1 → tr (t + k) = false) ∧ sampleBitAt tr p t = ⟨.fault .lowStuck, 0, t + p.lowTmo⟩)
    ∨ ∃ n, n ≤ p.lowTmo ∧ (∀ k, k < n → tr (t + k) = false) ∧ tr (t + n) = true
      ∧ (((∀ k, k < p.highTmo + 1 → tr (t + n + k) = true)
          ∧ sampleBitAt tr p t = ⟨.fault .highStuck, p.highTmo, t + n + p.highTmo⟩)
        ∨ ∃ h, 0 < h ∧ h ≤ p.highTmo ∧ (∀ k, k < h → tr (t + n + k) = true) ∧ tr (t + n + h) = false
          ∧ sampleBitAt tr p t = ⟨.bit (p.classify h), h, t + n + h⟩) := by
  rcases stays_or_leaves tr false p.lowTmo t with hlow | ⟨n, hn, hlow, hrise⟩
  · exact .inl ⟨hlow, sampleBitAt_low tr p hlow⟩
  refine .inr ⟨n, hn, hlow, hrise, ?_⟩
  rcases stays_or_leaves tr true p.highTmo (t + n) with hhigh | ⟨h, hh, hhigh, hfall⟩
  · exact .inl ⟨hhigh, sampleBitAt_high tr p hn hlow hhigh⟩
  · have hpos := run_pos hrise hfall
    exact .inr ⟨h, hpos, hh, hhigh, hfall, sampleBitAt_bit tr p hn hlow hpos hh hhigh hfall⟩

/-! ### The preamble -/

section
variable {tr : Nat → Bool} {p : Timing} {t n m : Nat}

/-- SYNC low past its bound (42_reception.md R182). -/
theorem rxFrameAt_syncLow (hlow : ∀ k, k < p.lowTmo + 1 → tr (t + k) = false) :
    rxFrameAt tr p t = ⟨.aborted .rxSyncLow, t + p.lowTmo, []⟩ := by
  simp only [rxFrameAt, runLen_full tr false hlow, Nat.lt_succ_self, if_true]

variable (hn : n ≤ p.lowTmo) (hlow : ∀ k, k < n → tr (t + k) = false)
include hn hlow

/-- The high phase after SYNC past its bound (42_reception.md R183). -/
theorem rxFrameAt_highTmo (hhigh : ∀ k, k < p.highTmo + 1 → tr (t + n + k) = true) :
    rxFrameAt tr p t = ⟨.aborted .rxHighTmo, t + n + p.highTmo, []⟩ := by
  have hrise : tr (t + n) ≠ false := by simpa using hhigh 0 (Nat.succ_pos _)
  simp only [rxFrameAt, runLen_eq tr false (Nat.lt_succ_of_le hn) hlow hrise, Nat.not_lt.mpr hn, if_false,
    runLen_full tr true hhigh, Nat.lt_succ_self, if_true]

variable (hm : 0 < m) (hmax : m ≤ p.highTmo) (hhigh : ∀ k, k < m → tr (t + n + k) = true)
include hm hmax hhigh

/-- The high phase after SYNC too short (42_reception.md R183). -/
theorem rxFrameAt_shortHigh (hshort : m < p.syncHighMin) (hfall : tr (t + n + m) = false) :
    rxFrameAt tr p t = ⟨.aborted .rxShortHigh, t + n + m, []⟩ := by
  have hrise : tr (t + n) ≠ false := by simpa using hhigh 0 hm
  have hfall : tr (t + n + m) ≠ true := by simp [hfall]
  simp only [rxFrameAt, runLen_eq tr false (Nat.lt_succ_of_le hn) hlow hrise, Nat.not_lt.mpr hn, if_false,
    runLen_eq tr true (Nat.lt_succ_of_le hmax) hhigh hfall, Nat.not_lt.mpr hmax, hshort, if_true]

/-- The bit-sync low past its bound (42_reception.md R184). -/
theorem rxFrameAt_bsLow (hmin : p.syncHighMin ≤ m) (hbs : ∀ k, k < p.lowTmo + 1 → tr (t + n + m + k) = false) :
    rxFrameAt tr p t = ⟨.aborted .rxBsLow, t + n + m + p.lowTmo, []⟩ := by
  have hrise : tr (t + n) ≠ false := by simpa using hhigh 0 hm
  have hfall : tr (t + n + m) ≠ true := by simpa using hbs 0 (Nat.succ_pos _)
  simp only [rxFrameAt, runLen_eq tr false (Nat.lt_succ_of_le hn) hlow hrise, Nat.not_lt.mpr hn, if_false,
    runLen_eq tr true (Nat.lt_succ_of_le hmax) hhigh hfall, Nat.not_lt.mpr hmax, Nat.not_lt.mpr hmin,
    runLen_full tr false hbs, Nat.lt_succ_self, if_true]

end

/-- How the preamble of a reception ends, with the widths that decide it (42_reception.md R182 to R185). -/
theorem rxFrameAt_ends (tr : Nat → Bool) (p : Timing) (t : Nat) :
    ((∀ k, k < p.lowTmo + 1 → tr (t + k) = false) ∧ rxFrameAt tr p t = ⟨.aborted .rxSyncLow, t + p.lowTmo, []⟩)
    ∨ ∃ n, n ≤ p.lowTmo ∧ (∀ k, k < n → tr (t + k) = false) ∧ tr (t + n) = true
      ∧ (((∀ k, k < p.highTmo + 1 → tr (t + n + k) = true)
          ∧ rxFrameAt tr p t = ⟨.aborted .rxHighTmo, t + n + p.highTmo, []⟩)
        ∨ ∃ m, 0 < m ∧ m ≤ p.highTmo ∧ (∀ k, k < m → tr (t + n + k) = true) ∧ tr (t + n + m) = false
          ∧ ((m < p.syncHighMin ∧ rxFrameAt tr p t = ⟨.aborted .rxShortHigh, t + n + m, []⟩)
            ∨ p.syncHighMin ≤ m
              ∧ (((∀ k, k < p.lowTmo + 1 → tr (t + n + m + k) = false)
                  ∧ rxFrameAt tr p t = ⟨.aborted .rxBsLow, t + n + m + p.lowTmo, []⟩)
                ∨ ∃ k, 0 < k ∧ k ≤ p.lowTmo ∧ (∀ j, j < k → tr (t + n + m + j) = false)
                  ∧ tr (t + n + m + k) = true ∧ rxFrameAt tr p t = rxBodyAt tr p (t + n + m + k)))) := by
  rcases stays_or_leaves tr false p.lowTmo t with hlow | ⟨n, hn, hlow, hrise⟩
  · exact .inl ⟨hlow, rxFrameAt_syncLow hlow⟩
  refine .inr ⟨n, hn, hlow, hrise, ?_⟩
  rcases stays_or_leaves tr true p.highTmo (t + n) with hhigh | ⟨m, hmax, hhigh, hfall⟩
  · exact .inl ⟨hhigh, rxFrameAt_highTmo hn hlow hhigh⟩
  have hm := run_pos hrise hfall
  refine .inr ⟨m, hm, hmax, hhigh, hfall, ?_⟩
  rcases Nat.lt_or_ge m p.syncHighMin with hshort | hmin
  · exact .inl ⟨hshort, rxFrameAt_shortHigh hn hlow hm hmax hhigh hshort hfall⟩
  refine .inr ⟨hmin, ?_⟩
  rcases stays_or_leaves tr false p.lowTmo (t + n + m) with hbs | ⟨k, hk, hbs, hcell⟩
  · exact .inl ⟨hbs, rxFrameAt_bsLow hn hlow hm hmax hhigh hmin hbs⟩
  · have hpos := run_pos hfall hcell
    exact .inr ⟨k, hpos, hk, hbs, hcell, rxFrameAt_of_preamble hn hlow hm hmin hmax hhigh hpos hk hbs hcell⟩

/-! ### Bounds of a reception -/

/-- SAMPLE_BIT ends within its two bounds. -/
theorem sampleBitAt_tEnd_le (tr : Nat → Bool) (p : Timing) (t : Nat) :
    (sampleBitAt tr p t).tEnd ≤ t + (p.lowTmo + p.highTmo) := by
  rcases sampleBitAt_ends tr p t with ⟨-, ho⟩ | ⟨n, hn, -, -, ⟨-, ho⟩ | ⟨h, -, hh, -, -, ho⟩⟩ <;>
    rw [ho] <;>
    dsimp only <;>
    omega

theorem sampleBitsAt_tEnd_le (tr : Nat → Bool) (p : Timing) (k t : Nat) (b : Byte) :
    (sampleBitsAt tr p k t b).tEnd ≤ t + k * (p.lowTmo + p.highTmo) := by
  induction k generalizing t b with
  | zero => simp [sampleBitsAt]
  | succ k ih =>
    have hbit := sampleBitAt_tEnd_le tr p t
    rw [Nat.succ_mul]
    simp only [sampleBitsAt]
    split
    · next v _ =>
      have := ih (sampleBitAt tr p t).tEnd (setBit b k v)
      omega
    · dsimp only
      omega

/-- What the bytes of a capture that begins in cycle `t` with `k` bytes to come keep to: the cycles they take and their
number. -/
structure RxTrace.within (o : RxTrace) (p : Timing) (t len k : Nat) : Prop where
  begins : t ≤ o.tEnd
  ends : o.tEnd ≤ t + k * (8 * (p.lowTmo + p.highTmo))
  length : o.bytes.length ≤ len + k

theorem rxBytesAt_within (tr : Nat → Bool) (p : Timing) (k t : Nat) (got : List Byte) :
    (rxBytesAt tr p k t got).within p t got.length k := by
  induction k generalizing t got with
  | zero => exact ⟨Nat.le_refl t, Nat.le_add_right .., Nat.le_refl _⟩
  | succ k ih =>
    have hle := sampleByteAt_le tr p t
    have hbyte : (sampleByteAt tr p t).tEnd ≤ _ := sampleBitsAt_tEnd_le tr p 8 t 0
    have hmul := Nat.add_one_mul k (8 * (p.lowTmo + p.highTmo))
    simp only [rxBytesAt]
    split
    · exact ⟨hle, by dsimp only; omega, Nat.le_add_right ..⟩
    · next b _ =>
      obtain ⟨begins, ends, length⟩ := ih (sampleByteAt tr p t).tEnd (got ++ [b])
      rw [List.length_append, List.length_singleton] at length
      exact ⟨by omega, by omega, by omega⟩

/-- The tag byte and what it announces are at most 255 bytes (42_reception.md R185, R186). -/
theorem rxBodyAt_within (tr : Nat → Bool) (p : Timing) (t : Nat) : (rxBodyAt tr p t).within p t 0 255 := by
  have hle := sampleByteAt_le tr p t
  have hbyte : (sampleByteAt tr p t).tEnd ≤ _ := sampleBitsAt_tEnd_le tr p 8 t 0
  simp only [rxBodyAt]
  split
  · exact ⟨hle, by dsimp only; omega, Nat.zero_le _⟩
  · next b _ =>
    have hmax : frameLen b - 1 ≤ 254 := Nat.sub_le_sub_right (frameLen_le b) 1
    have hmul := Nat.mul_le_mul_right (8 * (p.lowTmo + p.highTmo)) hmax
    obtain ⟨begins, ends, length⟩ := rxBytesAt_within tr p (frameLen b - 1) (sampleByteAt tr p t).tEnd [b]
    rw [List.length_singleton] at length
    exact ⟨by omega, by omega, by omega⟩

/-- A reception is over within the bounds of its phases: 10 + 25 + 10 units before the cells, 35 for each bit of at most 255
bytes (42_reception.md R192). -/
theorem rxFrameAt_bounds (tr : Nat → Bool) (p : Timing) (t : Nat) :
    t ≤ (rxFrameAt tr p t).tEnd ∧ (rxFrameAt tr p t).tEnd ≤ t + 71445 * p.delta
      ∧ (rxFrameAt tr p t).bytes.length ≤ 255 := by
  have hlowTmo : p.lowTmo = 10 * p.delta := rfl
  have hhighTmo : p.highTmo = 25 * p.delta := rfl
  rcases rxFrameAt_ends tr p t with ⟨-, ho⟩ | ⟨n, hn, -, -, ⟨-, ho⟩ | ⟨m, -, hm, -, -, ⟨-, ho⟩ | ⟨-, ⟨-, ho⟩ |
    ⟨k, -, hk, -, -, ho⟩⟩⟩⟩ <;> rw [ho]
  case inr.inr.inr.inr =>
    obtain ⟨begins, ends, length⟩ := rxBodyAt_within tr p (t + n + m + k)
    exact ⟨by omega, by omega, by omega⟩
  all_goals exact ⟨by dsimp only; omega, by dsimp only; omega, Nat.zero_le _⟩

end Sys2Proof.Machine
end

section
/-! SUPPORT. Obligations O22 and O23: the two ends of a reception. A trigger is taken in its cycle; the state in which a
reception ends is that of its trigger with the captured bytes stored, whatever the trace, and its end cycle is bounded. -/

namespace Sys2Proof.Machine

/-! ### The trigger -/

/-- What a trigger is (10_state.md R30, R31). -/
theorem trig_iff (s : State) : s.trig = true ↔ s.cfgValid = true ∧ s.rxActive = false ∧ s.diagMode = false
    ∧ s.arbState ≠ arbStartingCode ∧ s.arbState ≠ arbSendingCode ∧ s.linePrev = true ∧ s.line = false := by
  simp [State.trig, State.rxArm, State.fall, and_assoc]

/-- A step from a trigger cycle in which nothing is asked from outside is RX's alone: the trigger freezes ARB
(44_arbitration.md R216). -/
theorem step_trig {s : State} (hu : s.undisturbed) (htrig : s.trig = true) : step s = .next (endCycle s s.takeEdge) := by
  obtain ⟨hrst, hcalls, hsub, hret, -⟩ := hu
  obtain ⟨-, hactive, hdiag, -⟩ := (trig_iff s).mp htrig
  have hfrozen : ∀ l, s.arbRuns l = false := fun l => by simp [State.arbRuns, State.frozen, htrig]
  have hstill := arbCycle_still s s.takeEdge (hfrozen _)
  rw [step_quiet s hrst (by simp [hcalls])]
  simp only [clockOut, agentFault, rxIndexFault, diagIndexFault, clock, diagCycle, rxCycle, hostCycle_none s s hsub hret,
    hstill, hfrozen, hactive, hdiag, htrig, Bool.false_and, Bool.or_self, Bool.false_eq_true, if_false, if_true]

/-- Outside a trigger cycle no reception starts (42_reception.md R180). -/
theorem rxActive_of_no_trig {s t : State} (hu : s.undisturbed) (hactive : s.rxActive = false) (htrig : s.trig = false)
    (hstep : step s = .next t) : t.rxActive = false := by
  obtain ⟨hrst, hcalls, hsub, hret, -⟩ := hu
  rw [step_quiet s hrst (by simp [hcalls])] at hstep
  have hrx : rxCycle s s = s := by simp [rxCycle, hactive, htrig]
  rw [clockOut] at hstep
  split at hstep
  · cases hstep
  · cases hstep
    rw [clock, hostCycle_none s s hsub hret, hrx, endCycle_eq]
    have harb := congrArg State.rxActive (arbCycle_only s s)
    have hdiag := congrArg State.rxActive (diagCycle_only s (arbCycle s s))
    exact hdiag.trans (harb.trans hactive)

/-- Settles O22: the cycle of a trigger is RX's entry, and no other cycle starts a reception. -/
theorem fallingEdgeIsTaken : Obligations.FallingEdgeIsTaken := by
  refine ⟨fun s hu htrig => ?entry, fun s htrig => ?_, fun s t => rxActive_of_no_trig, trig_iff⟩
  case entry =>
    obtain ⟨-, -, -, -, -, -, hline⟩ := (trig_iff s).mp htrig
    rw [step_trig hu htrig, endCycle_eq, hline]
    obtain ⟨-, -, -, -, hlock⟩ := hu
    rw [← hlock]
    rfl
  · simp [exec, execRxFrame, htrig, State.reply]

/-! ### What RX_FRAME leaves -/

/-- The event that ends a reception (42_reception.md R189, R191). -/
def RxTrace.event (o : RxTrace) (room : Bool) : Event :=
  match o.outcome with
  | .aborted e => e
  | .complete => if room then .rxPushed o.bytes else .ringFull o.bytes

/-- A reception adds its capture to RING (42_reception.md R189). -/
def RxTrace.pushes (o : RxTrace) (room : Bool) : Bool := decide (o.outcome = .complete) && room

/-- The state in the last cycle of a reception with its writes: the trigger's state some cycles later, the bytes stored, RING
and NOTIFY written. -/
def State.received (s : State) (o : RxTrace) : State :=
  let s1 := (s.takeEdge.passIdle (o.tEnd - s.cycle)).storeCapture o.bytes
  { s1 with ring := if o.pushes (s.ringRoom o.bytes) then s1.ring ++ [o.bytes] else s1.ring }.endReception
    (o.event (s.ringRoom o.bytes))

/-- RX_FRAME from a trigger cycle, in the cycle after its last one. -/
theorem exec_rxFrame {s : State} {o : RxTrace} (htrig : s.trig = true) (ho : rxFrameAt s.lineAt s.timing s.cycle = o) :
    exec .rxFrame s = .next (((s.received o).reply 0x20
      (.received (o.result (s.ringRoom o.bytes)) o.tEnd)).passIdle 1) := by
  have hroom : ∀ n, ((s.takeEdge.passIdle n).storeCapture o.bytes).ringRoom o.bytes = s.ringRoom o.bytes := fun n => by
    simp [State.ringRoom, State.storeCapture]
  obtain ⟨outcome, tEnd, bytes⟩ := o
  cases outcome <;>
    simp only [exec, execRxFrame, htrig, if_true, ho, hroom, State.endCapture_eq, State.received, RxTrace.event,
      RxTrace.pushes, reduceCtorEq, decide_true, decide_false, Bool.true_and, Bool.false_and, Bool.false_eq_true, if_false]

/-- While a line is only read, time passes: LINE_PREV, the cycle, the inputs and the history of DRV_LOW move. -/
theorem State.passIdle_eq (s : State) (n : Nat) : ∃ l, s.passIdle n = { s with
    linePrev := l
    cycle := s.cycle + n
    inputs := s.inputs.drop n
    drvTrace := List.replicate n s.drvLow ++ s.drvTrace } := by
  refine ⟨(s.passIdle n).linePrev, (s.passWave_onlyTimePassed _).1.trans ?_⟩
  rw [← State.passIdle]
  simp

/-- The bytes a capture stores, and what it leaves of RX_BUF behind them (42_reception.md R188). -/
theorem storeCapture_byte (s : State) {bytes : List Byte} (hlen : bytes.length ≤ 255) :
    (s.rxBuf.wf = true → ∀ i, (h : i < bytes.length) → (s.storeCapture bytes).byte .rxBuf i = bytes[i])
    ∧ ∀ i, bytes.length ≤ i → (s.storeCapture bytes).byte .rxBuf i = s.byte .rxBuf i := by
  refine ⟨fun hwf i hi => ?_, fun i hi => Memory.read_writeFrom_other _ _ _ _ (.inr (by omega))⟩
  have h := Memory.read_writeFrom hwf (i := 0) (b := bytes) (by simpa using hlen) hi
  rwa [Nat.zero_add] at h

/-- RING after a reception holds what it held, and the capture if it is complete and there is room
(42_reception.md R189). -/
theorem ring_after_reception (s : State) (o : RxTrace) :
    let r := if o.pushes (s.ringRoom o.bytes) then s.ring ++ [o.bytes] else s.ring
    (r = s.ring ∨ o.outcome = .complete ∧ r = s.ring ++ [o.bytes] ∧ ringUsed r ≤ s.params.ringBytes)
    ∧ (o.outcome = .complete → ringUsed (s.ring ++ [o.bytes]) ≤ s.params.ringBytes → r = s.ring ++ [o.bytes]) := by
  intro r
  have hused : ringUsed (s.ring ++ [o.bytes]) = ringUsed s.ring + o.bytes.length := by simp [ringUsed]
  rw [hused]
  by_cases hpush : o.outcome = .complete ∧ ringUsed s.ring + o.bytes.length ≤ s.params.ringBytes
  · have hr : r = s.ring ++ [o.bytes] := if_pos (by simp [RxTrace.pushes, State.ringRoom, hpush])
    rw [hr, hused]
    exact ⟨.inr ⟨hpush.1, rfl, hpush.2⟩, fun _ _ => rfl⟩
  · have hr : r = s.ring := if_neg (by simpa [RxTrace.pushes, State.ringRoom] using hpush)
    exact ⟨.inl hr, fun hc hroom => absurd ⟨hc, hroom⟩ hpush⟩

/-- What RX_FRAME leaves, field by field, in the cycle after its last one. -/
theorem exec_rxFrame_eq {s : State} {o : RxTrace} (htrig : s.trig = true) (hle : s.cycle ≤ o.tEnd)
    (ho : rxFrameAt s.lineAt s.timing s.cycle = o) :
    ∃ l, exec .rxFrame s = .next { s with
      rxActive := false
      rxPhase := 0
      rxCnt := 1
      rxBitidx := 0
      rxByteidx := BitVec.ofNat 8 o.bytes.length
      rxLen := (s.storeCapture o.bytes).rxLen
      rxBuf := (s.storeCapture o.bytes).rxBuf
      notify := true
      ring := if o.pushes (s.ringRoom o.bytes) then s.ring ++ [o.bytes] else s.ring
      linePrev := l
      cycle := o.tEnd + 1
      inputs := (s.inputs.drop (o.tEnd - s.cycle)).tail
      drvTrace := List.replicate (o.tEnd + 1 - s.cycle) s.drvLow ++ s.drvTrace
      events := ⟨o.tEnd, o.event (s.ringRoom o.bytes)⟩ :: s.events
      replies := ⟨o.tEnd, 0x20, .received (o.result (s.ringRoom o.bytes)) o.tEnd⟩ :: s.replies } := by
  obtain ⟨l, hpass⟩ := s.takeEdge.passIdle_eq (o.tEnd - s.cycle)
  have hcycle : s.takeEdge.cycle + (o.tEnd - s.cycle) = o.tEnd := Nat.add_sub_cancel' hle
  have hlast : o.tEnd + 1 - s.cycle = o.tEnd - s.cycle + 1 := by omega
  rw [hcycle] at hpass
  rw [exec_rxFrame htrig ho, State.received, hpass, hlast]
  dsimp only [State.takeEdge, State.storeCapture, State.endReception, State.raise, State.reply, State.passIdle,
    List.replicate, State.passWave, State.passCycle]
  exact ⟨_, rfl⟩

/-- Settles O23: the trace bounds the reception, and what it leaves is known field by field. -/
theorem everyReceptionEnds : Obligations.EveryReceptionEnds := by
  intro s htrig o
  obtain ⟨hbegin, hend, hlen⟩ : s.cycle ≤ o.tEnd ∧ o.tEnd ≤ s.cycle + 71445 * s.tpDelta.toNat ∧ o.bytes.length ≤ 255 :=
    rxFrameAt_bounds s.lineAt s.timing s.cycle
  obtain ⟨hcfg, -, hdiag, hstarting, hsending, -, -⟩ := (trig_iff s).mp htrig
  obtain ⟨hring, hroom⟩ := ring_after_reception s o
  obtain ⟨hstored, hbehind⟩ := storeCapture_byte s hlen
  have hcount : (BitVec.ofNat 8 o.bytes.length).toNat = o.bytes.length := Nat.mod_eq_of_lt (by omega)
  obtain ⟨l, hexec⟩ := exec_rxFrame_eq htrig hbegin rfl
  refine ⟨_, hexec, rfl, hcount, hstored, rfl, rfl, rfl, ?armed, Nat.lt_succ_of_le hbegin, Nat.succ_le_succ hend, hring,
    hroom, rfl, fun i hi => hbehind i (hcount ▸ hi), fun b i hb => ?_⟩
  case armed =>
    simp only [State.rxArm, hcfg, hdiag, bne_iff_ne.mpr hstarting, bne_iff_ne.mpr hsending, Bool.not_false, Bool.and_self]
  · cases b with
    | rxBuf => exact absurd rfl hb
    | txFrame | rdFrame | diagBuf => rfl

end Sys2Proof.Machine
end

section
/-! SUPPORT. Obligation O24: the bit that never resolves. Cells are met as SAMPLE_BIT meets them, each high phase with the low
phase before it; eight of them make a byte, and the frame goes on until the fault. -/

namespace Sys2Proof.Machine

/-! ### The number bits stand for -/

theorem bitsValue_append (bs : List Bool) (v : Bool) : bitsValue (bs ++ [v]) = 2 * bitsValue bs + v.toNat := by
  rw [bitsValue, List.foldl_append]
  rfl

/-- Of bits whose last is the first one of `rs`, bit `j` of the number is the one at `j` in `rs`. -/
theorem testBit_bitsValue_reverse (rs : List Bool) (j : Nat) :
    (bitsValue rs.reverse).testBit j = (rs[j]?).getD false := by
  induction rs generalizing j with
  | nil => exact Nat.zero_testBit j
  | cons v rs ih =>
    have hv : v.toNat ≤ 1 := Bool.toNat_le v
    rw [List.reverse_cons, bitsValue_append]
    cases j with
    | zero =>
      have hmod : (2 * bitsValue rs.reverse + v.toNat) % 2 = v.toNat := by omega
      rw [Nat.testBit_zero, hmod]
      cases v <;> rfl
    | succ j =>
      have hdiv : (2 * bitsValue rs.reverse + v.toNat) / 2 = bitsValue rs.reverse := by omega
      rw [Nat.testBit_succ, hdiv]
      exact ih j

/-- Bit `j` of the number is the bit `j` from the end. -/
theorem testBit_bitsValue (bs : List Bool) (j : Nat) : (bitsValue bs).testBit j = (bs.reverse[j]?).getD false := by
  have h := testBit_bitsValue_reverse bs.reverse j
  rwa [List.reverse_reverse] at h

/-- A byte whose bits from bit 7 down are `bs` stands for their number (30_encoding.md R110). -/
theorem toNat_of_bits {b : Byte} {bs : List Bool} (hlen : bs.length = 8)
    (h : ∀ i, (hi : i < bs.length) → b.getLsbD (7 - i) = bs[i]) : b.toNat = bitsValue bs := by
  refine Nat.eq_of_testBit_eq fun j => ?_
  rw [testBit_bitsValue, BitVec.testBit_toNat]
  by_cases hj : j < 8
  · have hbit := h (7 - j) (by omega)
    rw [show 7 - (7 - j) = j by omega] at hbit
    rw [List.getElem?_eq_getElem (by simpa [hlen]), Option.getD_some, List.getElem_reverse, hbit]
    congr 1
    omega
  · rw [BitVec.getLsbD_of_ge b j (Nat.le_of_not_lt hj), List.getElem?_eq_none (by simpa [hlen] using hj), Option.getD_none]

/-! ### A fault after cells -/

/-- From cycle `t` on the line has these cells, each with the low phase before its high phase, and then SAMPLE_BIT faults in
cycle `e`. -/
structure FaultAfterCells (tr : Nat → Bool) (p : Timing) (t : Nat) (ds : List (Nat × Nat)) (e : Nat) : Prop where
  within : ∀ d ∈ ds, cellWithin p d
  low : ∀ d ∈ ds.tail, 1 ≤ d.1
  runs : follows tr t (sampleRuns ds)
  falls : ds ≠ [] → tr (t + cellCycles ds) = false
  faults : ∃ f, (sampleBitAt tr p (t + cellCycles ds)).r = .fault f
  ends : (sampleBitAt tr p (t + cellCycles ds)).tEnd = e

section
variable {tr : Nat → Bool} {p : Timing} {t e : Nat} {ds : List (Nat × Nat)} (h : FaultAfterCells tr p t ds e)
include h

/-- Before the cells of a byte are complete the fault is SAMPLE_BYTE's. -/
theorem FaultAfterCells.sampleByteAt_fault (hlen : ds.length < 8) : ∃ f, sampleByteAt tr p t = ⟨.fault f, e⟩ := by
  obtain ⟨f, hf⟩ := h.faults
  exact ⟨f, h.ends ▸ Machine.sampleByteAt_fault hlen h.within h.low h.runs h.falls rfl hf⟩

/-- Eight cells make a byte, and the fault comes after the others. -/
theorem FaultAfterCells.sampleByteAt_byte (hlen : 8 ≤ ds.length) : ∃ b e', sampleByteAt tr p t = ⟨.byte b, e'⟩
    ∧ b.toNat = bitsValue ((ds.take 8).map (fun d => p.classify d.2)) ∧ FaultAfterCells tr p e' (ds.drop 8) e := by
  obtain ⟨hwithin, hlow, hruns, hfalls, hfaults, hends⟩ := h
  obtain ⟨bs, cs, rfl, hbs⟩ : ∃ bs cs, ds = bs ++ cs ∧ bs.length = 8 :=
    ⟨_, _, (ds.take_append_drop 8).symm, List.length_take_of_le hlen⟩
  have hne : bs ≠ [] := List.ne_nil_of_length_pos (by omega)
  have hcycles : t + cellCycles (bs ++ cs) = t + cellCycles bs + cellCycles cs := by simp [cellCycles, Nat.add_assoc]
  rw [List.tail_append_of_ne_nil hne] at hlow
  rw [sampleRuns, List.flatMap_append, follows_append, ← sampleRuns, runCycles_sampleRuns] at hruns
  rw [hcycles] at hfalls hfaults hends
  obtain ⟨hbruns, hcruns⟩ := hruns
  have hclow : ∀ c ∈ cs, 1 ≤ c.1 := fun c hc => hlow c (List.mem_append_right _ hc)
  have hfall := low_of_follows_sampleRuns hclow hcruns (hfalls (by simp [hne]))
  obtain ⟨b, hs, hbits, -⟩ := sampleBitsAt_cells (k := 0) 0 (by omega)
    (fun d hd => hwithin d (List.mem_append_left _ hd)) (fun d hd => hlow d (List.mem_append_left _ hd)) hbruns fun _ => hfall
  rw [hbs] at hs
  refine ⟨b, t + cellCycles bs, hs, ?_, ?_⟩
  · rw [List.take_left' hbs]
    refine toNat_of_bits (by simpa using hbs) fun i hi => ?_
    simpa [hbs] using hbits i (by simpa using hi)
  · rw [List.drop_left' hbs]
    exact ⟨fun d hd => hwithin d (List.mem_append_right _ hd), fun c hc => hclow c (List.mem_of_mem_tail hc), hcruns,
      fun _ => hfalls (by simp [hne]), hfaults, hends⟩

/-- A fault before the bytes to come are complete aborts the capture (42_reception.md R187). -/
theorem FaultAfterCells.rxBytesAt_aborts {k : Nat} (hlen : ds.length < 8 * k) (got : List Byte) :
    ∃ got', rxBytesAt tr p k t got = ⟨.aborted .rxBitFault, e, got'⟩ := by
  induction k generalizing t ds got with
  | zero => exact absurd hlen (Nat.not_lt_zero _)
  | succ k ih =>
    rcases Nat.lt_or_ge ds.length 8 with hshort | hbyte
    · obtain ⟨f, hf⟩ := h.sampleByteAt_fault hshort
      exact ⟨got, by simp only [rxBytesAt, hf]⟩
    · obtain ⟨b, e', hb, -, hrest⟩ := h.sampleByteAt_byte hbyte
      simp only [rxBytesAt, hb]
      exact ih hrest (by rw [List.length_drop]; omega) (got ++ [b])

/-- A fault in a frame that goes on aborts the reception, in the cycle of the fault (42_reception.md R185 to R187). -/
theorem FaultAfterCells.rxBodyAt_aborts (hmore : frameGoesOn (ds.map (fun d => p.classify d.2))) :
    ∃ got, rxBodyAt tr p t = ⟨.aborted .rxBitFault, e, got⟩ := by
  rcases Nat.lt_or_ge ds.length 8 with hshort | hbyte
  · obtain ⟨f, hf⟩ := h.sampleByteAt_fault hshort
    exact ⟨[], by simp only [rxBodyAt, hf]⟩
  · obtain ⟨b, e', hb, hvalue, hrest⟩ := h.sampleByteAt_byte hbyte
    have hlen : ds.length < 8 * frameLen b := by
      rw [frameGoesOn, List.length_map, ← List.map_take, ← hvalue, ← frameLen_eq] at hmore
      omega
    have hpos := frameLen_pos b
    simp only [rxBodyAt, hb]
    exact hrest.rxBytesAt_aborts (by rw [List.length_drop]; omega) [b]

end

/-! ### Cells as SAMPLE_BIT meets them -/

/-- Cells, each a high and a low width, after a low phase of `g` cycles: each high phase with the low phase before it. -/
def lowFirst : Nat → List (Nat × Nat) → List (Nat × Nat)
  | _, [] => []
  | g, (h, l) :: cs => (g, h) :: lowFirst l cs

/-- The low phase after the last of these high phases. -/
def lastLow : Nat → List (Nat × Nat) → Nat
  | g, [] => g
  | _, (_, l) :: cs => lastLow l cs

/-- Both are the same runs. -/
theorem cellRuns_eq_sampleRuns (g : Nat) (cs : List (Nat × Nat)) :
    (false, g) :: cellRuns cs = sampleRuns (lowFirst g cs) ++ [(false, lastLow g cs)] := by
  induction cs generalizing g with
  | nil => rfl
  | cons c cs ih =>
    have := ih c.2
    simp only [cellRuns, sampleRuns] at this
    simp [cellRuns, lowFirst, lastLow, this]

theorem cellCycles_lowFirst (g : Nat) (cs : List (Nat × Nat)) :
    cellCycles (lowFirst g cs) + lastLow g cs = g + cellCycles cs := by
  induction cs generalizing g with
  | nil => simp [cellCycles, lowFirst, lastLow]
  | cons c cs ih =>
    have := ih c.2
    simp only [cellCycles, lowFirst, lastLow, List.map_cons, List.sum_cons] at this ⊢
    omega

theorem runCycles_cellRuns (cs : List (Nat × Nat)) : runCycles (cellRuns cs) = cellCycles cs := by
  induction cs with
  | nil => rfl
  | cons c cs ih =>
    simp only [runCycles, cellRuns, cellCycles] at ih ⊢
    simp [ih, Nat.add_assoc]

theorem lastLow_append (g : Nat) (cs : List (Nat × Nat)) (c : Nat × Nat) : lastLow g (cs ++ [c]) = c.2 := by
  induction cs generalizing g with
  | nil => rfl
  | cons d cs ih => exact ih d.2

theorem cellBits_eq_lowFirst (p : Timing) (g : Nat) (cs : List (Nat × Nat)) :
    cellBits p cs = (lowFirst g cs).map (fun d => p.classify d.2) := by
  induction cs generalizing g with
  | nil => rfl
  | cons c cs ih => exact congrArg _ (ih c.2)

theorem map_snd_lowFirst (g : Nat) (cs : List (Nat × Nat)) : (lowFirst g cs).map Prod.snd = cs.map Prod.fst := by
  induction cs generalizing g with
  | nil => rfl
  | cons c cs ih => simp [lowFirst, ih]

/-- What holds of the first low phase and of those of the cells holds of each low phase. -/
theorem low_of_lowFirst {P : Nat → Prop} {g : Nat} {cs : List (Nat × Nat)} (hg : P g) (hcs : ∀ c ∈ cs, P c.2) :
    (∀ d ∈ lowFirst g cs, P d.1) ∧ P (lastLow g cs) := by
  induction cs generalizing g with
  | nil => exact ⟨by simp [lowFirst], hg⟩
  | cons c cs ih =>
    obtain ⟨hc, hcs⟩ := List.forall_mem_cons.mp hcs
    obtain ⟨hmem, hlast⟩ := ih hc hcs
    exact ⟨List.forall_mem_cons.mpr ⟨hg, hmem⟩, hlast⟩

/-- Cells whose phases are within their bounds (42_reception.md R187). -/
abbrev bitCellsWithin (p : Timing) (cs : List (Nat × Nat)) : Prop :=
  ∀ c ∈ cs, 1 ≤ c.1 ∧ c.1 ≤ p.highTmo ∧ 1 ≤ c.2 ∧ c.2 ≤ p.lowTmo

section
variable {tr : Nat → Bool} {p : Timing} {t : Nat} {cs : List (Nat × Nat)}

theorem follows_cellRuns (hf : follows tr t (cellRuns cs)) : follows tr t (sampleRuns (lowFirst 0 cs))
    ∧ ∀ k, k < lastLow 0 cs → tr (t + cellCycles (lowFirst 0 cs) + k) = false := by
  have hall : follows tr t ((false, 0) :: cellRuns cs) := ⟨fun k hk => absurd hk (Nat.not_lt_zero k), hf⟩
  rw [cellRuns_eq_sampleRuns, follows_append, runCycles_sampleRuns] at hall
  obtain ⟨hruns, hlast, -⟩ := hall
  exact ⟨hruns, hlast⟩

variable (hcs : bitCellsWithin p cs)
include hcs

/-- Only the first low phase can be empty. -/
theorem low_pos_of_lowFirst : (∀ d ∈ (lowFirst 0 cs).tail, 1 ≤ d.1) ∧ (lowFirst 0 cs ≠ [] → 1 ≤ lastLow 0 cs) := by
  cases cs with
  | nil => simp [lowFirst]
  | cons c cs =>
    obtain ⟨⟨-, -, hpos, -⟩, hrest⟩ := List.forall_mem_cons.mp hcs
    obtain ⟨hlow, hlast⟩ := low_of_lowFirst (P := (1 ≤ ·)) hpos fun d hd => let ⟨_, _, h, _⟩ := hrest d hd; h
    exact ⟨hlow, fun _ => hlast⟩

theorem lowFirst_within : (∀ d ∈ lowFirst 0 cs, cellWithin p d) ∧ lastLow 0 cs ≤ p.lowTmo := by
  obtain ⟨hlow, hlast⟩ := low_of_lowFirst (P := (· ≤ p.lowTmo)) (Nat.zero_le _) fun c hc =>
    let ⟨_, _, _, h⟩ := hcs c hc; h
  refine ⟨fun d hd => ⟨hlow d hd, ?_⟩, hlast⟩
  have hsnd : d.2 ∈ cs.map Prod.fst := map_snd_lowFirst 0 cs ▸ List.mem_map_of_mem hd
  obtain ⟨c, hc, hcd⟩ := List.mem_map.mp hsnd
  obtain ⟨hpos, hhigh, -⟩ := hcs c hc
  exact hcd ▸ ⟨hpos, hhigh⟩

/-- Cells of the line and the fault of the SAMPLE_BIT that starts with the last one's low phase. -/
theorem faultAfterCells_of_sample {f : BitFault} {h e : Nat} (hf : follows tr t (cellRuns cs))
    (ho : sampleBitAt tr p (t + cellCycles (lowFirst 0 cs)) = ⟨.fault f, h, e⟩) :
    FaultAfterCells tr p t (lowFirst 0 cs) e := by
  obtain ⟨hruns, hlast⟩ := follows_cellRuns hf
  obtain ⟨hlow, hpos⟩ := low_pos_of_lowFirst hcs
  obtain ⟨hwithin, -⟩ := lowFirst_within hcs
  exact ⟨hwithin, hlow, hruns, fun hne => hlast 0 (hpos hne), ⟨f, by rw [ho]⟩, by rw [ho]⟩

/-- A high phase without end after cells. -/
theorem faultAfterCells_high (hf : follows tr t (cellRuns cs ++ [(true, p.highTmo + 1)])) :
    FaultAfterCells tr p t (lowFirst 0 cs) (t + cellCycles cs + p.highTmo) := by
  obtain ⟨hf, hstuck, -⟩ := (follows_append ..).mp hf
  obtain ⟨-, hlast⟩ := follows_cellRuns hf
  obtain ⟨-, hmax⟩ := lowFirst_within hcs
  have hcycles : t + cellCycles (lowFirst 0 cs) + lastLow 0 cs = t + cellCycles cs := by
    have := cellCycles_lowFirst 0 cs
    omega
  rw [runCycles_cellRuns, ← hcycles] at hstuck
  rw [← hcycles]
  exact faultAfterCells_of_sample hcs hf (sampleBitAt_high tr p hmax hlast hstuck)

/-- A low phase without end after cells, the last of which has `h` high cycles. -/
theorem faultAfterCells_low {h : Nat} (hpos : 1 ≤ h) (hh : h ≤ p.highTmo) (hone : 1 ≤ p.lowTmo)
    (hf : follows tr t (cellRuns cs ++ [(true, h), (false, p.lowTmo + 1)])) :
    FaultAfterCells tr p t (lowFirst 0 (cs ++ [(h, 1)])) (t + cellCycles cs + h + p.lowTmo) := by
  obtain ⟨hf, hhigh, hstuck, -⟩ := (follows_append ..).mp hf
  have hruns : follows tr t (cellRuns (cs ++ [(h, 1)])) := by
    rw [cellRuns, List.flatMap_append, follows_append]
    exact ⟨hf, hhigh, fun k hk => hstuck k (by omega), trivial⟩
  have hcycles : t + cellCycles (lowFirst 0 (cs ++ [(h, 1)])) = t + cellCycles cs + h := by
    have := cellCycles_lowFirst 0 (cs ++ [(h, 1)])
    rw [lastLow_append] at this
    simp [cellCycles] at this ⊢
    omega
  rw [runCycles_cellRuns, ← hcycles] at hstuck
  rw [← hcycles]
  refine faultAfterCells_of_sample (fun c hc => ?_) hruns (sampleBitAt_low tr p hstuck)
  · rcases List.mem_append.mp hc with hc | hc
    · exact hcs c hc
    · cases List.mem_singleton.mp hc
      exact ⟨hpos, hh, Nat.le_refl 1, hone⟩

omit hcs in
/-- Where every cell has a high phase, cells begin with a high cycle, and so does what comes after none. -/
theorem high_of_follows_cellRuns {w : Nat} {rs : List (Bool × Nat)} (hhigh : ∀ c ∈ cs, 1 ≤ c.1) (hw : 1 ≤ w)
    (hf : follows tr t (cellRuns cs ++ (true, w) :: rs)) : tr t = true := by
  cases cs with
  | nil => exact hf.1 0 hw
  | cons c cs => exact hf.1 0 (hhigh c List.mem_cons_self)

end

/-! ### The operation -/

/-- What RX_FRAME leaves when its trace is aborted (42_reception.md R191). -/
theorem exec_rxFrame_of_aborted {s : State} {e : Event} {tEnd : Nat} {got : List Byte} (htrig : s.trig = true)
    (ho : rxFrameAt s.lineAt s.timing s.cycle = ⟨.aborted e, tEnd, got⟩) :
    ∃ t, exec .rxFrame s = .next t ∧ t.events = ⟨tEnd, e⟩ :: s.events ∧ t.cycle = tEnd + 1 ∧ t.ring = s.ring
      ∧ t.notify = true ∧ t.rxActive = false := by
  obtain ⟨hle, -⟩ := rxFrameAt_bounds s.lineAt s.timing s.cycle
  rw [ho] at hle
  obtain ⟨l, hexec⟩ := exec_rxFrame_eq htrig hle ho
  exact ⟨_, hexec, rfl, rfl, rfl, rfl, rfl⟩

/-- A fault in the cells after a preamble within its bounds aborts the reception, if the frame goes on. -/
theorem exec_rxFrame_of_fault {s : State} {n m k e : Nat} {ds : List (Nat × Nat)} {rs : List (Bool × Nat)}
    (htrig : s.trig = true)
    (hn : n ≤ s.timing.lowTmo) (hm : 1 ≤ m) (hmin : s.timing.syncHighMin ≤ m) (hmax : m ≤ s.timing.highTmo) (hk : 1 ≤ k)
    (hkmax : k ≤ s.timing.lowTmo) (hf : follows s.lineAt s.cycle ([(false, n), (true, m), (false, k)] ++ rs))
    (hcell : s.lineAt (s.cycle + n + m + k) = true)
    (hfault : FaultAfterCells s.lineAt s.timing (s.cycle + n + m + k) ds e)
    (hmore : frameGoesOn (ds.map (fun d => s.timing.classify d.2))) :
    ∃ t, exec .rxFrame s = .next t ∧ t.events = ⟨e, .rxBitFault⟩ :: s.events ∧ t.cycle = e + 1 ∧ t.ring = s.ring
      ∧ t.notify = true ∧ t.rxActive = false := by
  obtain ⟨hsync, hhigh, hbs, -⟩ := hf
  obtain ⟨got, hbody⟩ := hfault.rxBodyAt_aborts hmore
  rw [← rxFrameAt_of_preamble hn hsync hm hmin hmax hhigh hk hkmax hbs hcell] at hbody
  exact exec_rxFrame_of_aborted htrig hbody

/-- Settles O24: each phase of the preamble past its bound or too short, and the fault after any cells of a frame that goes
on. -/
theorem badFramingAbortsTheReception : Obligations.BadFramingAbortsTheReception := by
  intro s n m k L htrig hL aborts
  have hlowTmo : s.timing.lowTmo = L := hL.symm
  refine ⟨?syncLow, ?shortHigh, ?highTmo, ?bsLow, ?bits⟩
  case syncLow =>
    rintro ⟨hlow, -⟩
    rw [← hlowTmo] at hlow ⊢
    exact exec_rxFrame_of_aborted htrig (rxFrameAt_syncLow hlow)
  case shortHigh =>
    rintro hn hpos hm ⟨hlow, hhigh, hfall, -⟩
    have hmax : m ≤ s.timing.highTmo := show m ≤ 25 * s.tpDelta.toNat by omega
    exact exec_rxFrame_of_aborted htrig
      (rxFrameAt_shortHigh (hlowTmo ▸ hn) hlow hpos hmax hhigh hm (hfall 0 Nat.one_pos))
  case highTmo =>
    rintro hn ⟨hlow, hhigh, -⟩
    exact exec_rxFrame_of_aborted htrig (rxFrameAt_highTmo (hlowTmo ▸ hn) hlow hhigh)
  case bsLow =>
    rintro hn hpos hmin hmax ⟨hlow, hhigh, hbs, -⟩
    rw [← hlowTmo] at hn hbs ⊢
    exact exec_rxFrame_of_aborted htrig (rxFrameAt_bsLow hn hlow hpos hmax hhigh hmin hbs)
  case bits =>
    intro cs hn hpos hmin hmax hk hkL hcs hmore
    rw [← hlowTmo] at hn hkL hcs ⊢
    have hcellsHigh : ∀ c ∈ cs, 1 ≤ c.1 := fun c hc => let ⟨h, _⟩ := hcs c hc; h
    refine ⟨fun hf => ?high, fun h hh hhmax hgoes hf => ?low⟩ <;>
      rw [List.append_assoc] at hf <;>
      obtain ⟨-, -, -, hcells⟩ := id hf
    case high =>
      exact exec_rxFrame_of_fault htrig hn hpos hmin hmax hk hkL hf
        (high_of_follows_cellRuns hcellsHigh (Nat.succ_pos _) hcells) (faultAfterCells_high hcs hcells)
        (cellBits_eq_lowFirst .. ▸ hmore)
    case low =>
      exact exec_rxFrame_of_fault htrig hn hpos hmin hmax hk hkL hf (high_of_follows_cellRuns hcellsHigh hh hcells)
        (faultAfterCells_low hcs hh hhmax (by omega) hcells) (cellBits_eq_lowFirst .. ▸ hgoes)

end Sys2Proof.Machine
end

section
/-! SUPPORT. Obligation O26: the receiver's clock cycles. In every cycle of a reception the state is that of the trigger some
cycles later, with the bytes so far stored and the registers of the run in progress; each phase counts its run from 1 and
leaves it, or ends the reception, in the cycle in which RX_FRAME's run does. -/

namespace Sys2Proof.Machine

/-! ### Steps, one a cycle -/

theorem stepN_add {m n : Nat} {s t : State} (h : stepN m s = some t) : stepN (m + n) s = stepN n t := by
  induction m generalizing s with
  | zero =>
    cases h
    rw [Nat.zero_add]
  | succ m ih =>
    rw [Nat.add_right_comm, stepN]
    rw [stepN] at h
    split at h
    · exact ih h
    · cases h
    · cases h

/-- Clock cycles, a step each, lead from `s` to `u`. -/
def Reaches (s u : State) : Prop := ∃ n, u.cycle = s.cycle + n ∧ stepN n s = some u

theorem Reaches.refl (s : State) : Reaches s s := ⟨0, rfl, rfl⟩

theorem Reaches.trans {s t u : State} (h : Reaches s t) (k : Reaches t u) : Reaches s u := by
  obtain ⟨m, hm, hs⟩ := h
  obtain ⟨n, hn, ht⟩ := k
  exact ⟨m + n, by omega, (stepN_add hs).trans ht⟩

theorem Reaches.of_step {s t : State} (h : step s = .next t) (hcycle : t.cycle = s.cycle + 1) : Reaches s t :=
  ⟨1, hcycle, by simp only [stepN, h]⟩

/-! ### The state in a reception -/

/-- What a reception has come to at the start of a cycle: the bytes stored, RX_PHASE, RX_CNT, RX_BITIDX and RX_SHIFT. -/
structure RxRegs where
  got : List Byte
  phase : BitVec 3
  cnt : Nat
  bit : Nat
  shift : Byte

/-- The state at the start of cycle `t` of the reception that the trigger cycle `s` begins. -/
def State.receiving (s : State) (t : Nat) (r : RxRegs) : State :=
  { (s.takeEdge.passIdle (t - s.cycle)).storeCapture r.got with
    rxPhase := r.phase
    rxCnt := count r.cnt
    rxShift := r.shift
    rxBitidx := BitVec.ofNat 3 r.bit }

theorem count_toNat {n : Nat} (h : n < 2 ^ 32) : (count n).toNat = n := Nat.mod_eq_of_lt h

theorem count_succ (n : Nat) : count n + 1 = count (n + 1) := (BitVec.ofNat_add ..).symm

theorem State.passIdle_succ (s : State) (n : Nat) : s.passIdle (n + 1) = (s.passIdle n).passCycle s.drvLow := by
  rw [State.passIdle, List.replicate_succ', State.passWave_append]
  rfl

/-- The line in a later cycle, DRV_LOW keeping its value. -/
theorem State.line_passIdle (s : State) (n : Nat) : (s.passIdle n).line = s.lineAt (s.cycle + n) := by
  simp [State.line, State.lineAt, State.inputNow, State.inputAt, State.idleIn, List.headD_eq_head?_getD]

theorem State.receiving_timing (s : State) (t : Nat) (r : RxRegs) : (s.receiving t r).timing = s.timing := by
  simp [State.receiving, State.storeCapture, State.timing]

theorem State.receiving_ringRoom (s : State) (t : Nat) (r : RxRegs) (b : List Byte) :
    (s.receiving t r).ringRoom b = s.ringRoom b := by
  simp [State.receiving, State.storeCapture, State.ringRoom]

theorem State.receiving_line {s : State} {t : Nat} (ht : s.cycle ≤ t) (r : RxRegs) :
    (s.receiving t r).line = s.lineAt t := by
  have h := s.takeEdge.line_passIdle (t - s.cycle)
  rwa [State.takeEdge_cycle, Nat.add_sub_cancel' ht] at h

theorem State.receiving_cycle {s : State} {t : Nat} (ht : s.cycle ≤ t) (r : RxRegs) : (s.receiving t r).cycle = t := by
  simp [State.receiving, State.storeCapture, Nat.add_sub_cancel' ht]

/-! ### The phases -/

/-- The phases that count high cycles. -/
def rxLevel (phase : BitVec 3) : Bool := phase == 2 || phase == 5

/-- The bound of a phase's run (42_reception.md R182 to R184, R187). -/
def rxBound (p : Timing) (phase : BitVec 3) : Nat := if rxLevel phase then p.highTmo else p.lowTmo

theorem rxBound_cases (p : Timing) (phase : BitVec 3) :
    rxBound p phase = 10 * p.delta ∨ rxBound p phase = 25 * p.delta := by
  rw [rxBound]
  split
  · exact .inr rfl
  · exact .inl rfl

/-- The event of a run past its bound. -/
def rxTimeout (phase : BitVec 3) : Event :=
  match phase.toNat with
  | 1 => .rxSyncLow
  | 2 => .rxHighTmo
  | 3 => .rxBsLow
  | _ => .rxBitFault

/-- The phases of a running reception (10_state.md R32). -/
theorem rxPhase_cases {phase : BitVec 3} (h : 1 ≤ phase.toNat ∧ phase.toNat ≤ 5) :
    phase = 1 ∨ phase = 2 ∨ phase = 3 ∨ phase = 4 ∨ phase = 5 := by
  bv_omega

section
variable {s : State} (hphase : 1 ≤ s.rxPhase.toNat ∧ s.rxPhase.toNat ≤ 5) (hline : s.line = rxLevel s.rxPhase)
include hphase hline

/-- Every phase counts the cycles at its level up to its bound. -/
theorem rxStep_counts (hcnt : s.rxCnt.toNat < rxBound s.timing s.rxPhase) : rxStep s s = State.rxCount s s := by
  rcases rxPhase_cases hphase with h | h | h | h | h <;>
    simp [h, rxLevel, rxBound] at hline hcnt <;>
    simp [rxStep, rxSyncLow, rxSyncHigh, rxBsLow, rxBitLow, rxBitHigh, h, hline, Nat.not_le.mpr hcnt]

/-- Every phase ends the reception when its run passes its bound. -/
theorem rxStep_times_out (hcnt : rxBound s.timing s.rxPhase ≤ s.rxCnt.toNat) :
    rxStep s s = s.endReception (rxTimeout s.rxPhase) := by
  rcases rxPhase_cases hphase with h | h | h | h | h <;>
    simp [h, rxLevel, rxBound] at hline hcnt <;>
    simp [rxStep, rxSyncLow, rxSyncHigh, rxBsLow, rxBitLow, rxBitHigh, rxTimeout, h, hline, hcnt]

end

/-- The end of SYNC low, of the bit-sync low and of a guard begins a high phase (42_reception.md R182, R184). -/
theorem rxStep_rises {s : State} (hphase : s.rxPhase = 1 ∨ s.rxPhase = 3 ∨ s.rxPhase = 4) (hline : s.line = true) :
    rxStep s s = s.rxGo (if s.rxPhase = 1 then 2 else 5) := by
  rcases hphase with h | h | h <;> simp [rxStep, rxSyncLow, rxBsLow, rxBitLow, h, hline]

/-- The end of the high phase after SYNC (42_reception.md R183). -/
theorem rxStep_syncHigh_falls {s : State} (hphase : s.rxPhase = 2) (hline : s.line = false) : rxStep s s =
    if s.rxCnt.toNat < s.timing.syncHighMin then s.endReception .rxShortHigh else s.rxGo 3 := by
  simp [rxStep, rxSyncHigh, hphase, hline]

/-- The end of a bit's high phase gives the bit (40_bit_codec.md R142, R143). -/
theorem rxStep_bit_falls {s : State} (hphase : s.rxPhase = 5) (hline : s.line = false) :
    rxStep s s = rxBitDone s s (s.timing.classify s.rxCnt.toNat) := by
  simp [rxStep, rxBitHigh, hphase, hline]

/-- The bit a high phase of `h` cycles stands for is put into the byte (40_bit_codec.md R146). -/
theorem State.receiving_shiftIn (s : State) (t h : Nat) (got : List Byte) {bit : Nat} (hbit : bit ≤ 7) (shift : Byte)
    (v : Bool) :
    rxShiftIn (s.receiving t ⟨got, 5, h, bit, shift⟩) v = setBit (if bit = 0 then 0 else shift) (7 - bit) v := by
  have hnat : (BitVec.ofNat 3 bit).toNat = bit := Nat.mod_eq_of_lt (Nat.lt_succ_of_le hbit)
  have hzero : BitVec.ofNat 3 bit = 0 ↔ bit = 0 := by rw [← BitVec.toNat_inj, hnat]; rfl
  simp only [rxShiftIn, State.receiving, hnat, hzero]

/-- A high phase of `h` cycles has fallen: its bit is done. -/
theorem State.receiving_rxStep_bit {s : State} {t : Nat} (ht : s.cycle ≤ t) {got : List Byte} {h bit : Nat}
    {shift : Byte} (hh : h < 2 ^ 32) (hfall : s.lineAt t = false) :
    rxStep (s.receiving t ⟨got, 5, h, bit, shift⟩) (s.receiving t ⟨got, 5, h, bit, shift⟩)
      = rxBitDone (s.receiving t ⟨got, 5, h, bit, shift⟩) (s.receiving t ⟨got, 5, h, bit, shift⟩)
        (s.timing.classify h) := by
  have hcnt : (s.receiving t ⟨got, 5, h, bit, shift⟩).rxCnt.toNat = h := count_toNat hh
  rw [rxStep_bit_falls rfl ((State.receiving_line ht _).trans hfall), hcnt, State.receiving_timing]

/-- The state in the cycle after a SAMPLE_BIT has begun in cycle `t`: the first bit's with the line high, every other one's in
its guard. -/
def State.sampling (s : State) (t : Nat) (got : List Byte) (bit : Nat) (shift : Byte) : State :=
  s.receiving (t + 1) ⟨got, if s.lineAt t then 5 else 4, 1, bit, shift⟩

/-- In cycle `t` the byte `x` is complete. -/
def ByteDue (s : State) (t : Nat) (got : List Byte) (x : Byte) (v : State) : Prop :=
  s.lineAt t = false ∧ ∃ h shift, v = s.receiving t ⟨got, 5, h, 7, shift⟩ ∧ rxStep v v = rxByteDone v v x

/-! ### A reception's cycles -/

/-- A trigger in a block of which nothing is asked until the reception is over, with a profile the counters can hold. -/
structure Receives (s : State) : Prop where
  undisturbed : s.undisturbed
  noReset : ∀ c ∈ s.inputs, c.rst = false
  trig : s.trig = true
  canonical : s.rxBuf.wf = true
  delta_pos : 1 ≤ s.tpDelta.toNat
  fits : 25 * s.tpDelta.toNat < 2 ^ 32

/-- Where no input resets, the present cycle's does not. -/
theorem inputNow_rst_of_inputs {s : State} (h : ∀ c ∈ s.inputs, c.rst = false) : s.inputNow.rst = false := by
  cases hi : s.inputs with
  | nil => simp [State.inputNow, hi, State.idleIn]
  | cons c r => simpa [State.inputNow, hi] using h c (by simp [hi])

/-- The clock cycles lead to the state in which RX_FRAME leaves a reception with the trace `o`, but for RX_CNT, RX_SHIFT and
RX_BITIDX, which RX_FRAME does not keep (DESIGN CHOICE, entry 18). -/
def EndsAs (s v : State) (o : RxTrace) : Prop := ∃ u, Reaches v u ∧ u = { (s.received o).passIdle 1 with
  rxCnt := u.rxCnt
  rxShift := u.rxShift
  rxBitidx := u.rxBitidx }

theorem EndsAs.of_reaches {v w : State} {o : RxTrace} (h : Reaches v w) (k : EndsAs s w o) : EndsAs s v o := by
  obtain ⟨u, hu, heq⟩ := k
  exact ⟨u, h.trans hu, heq⟩

section
variable {s : State} (hs : Receives s)
include hs

/-- A run's bound is a count of at least one cycle. -/
theorem Receives.rxBound_fits (phase : BitVec 3) : 1 ≤ rxBound s.timing phase ∧ rxBound s.timing phase < 2 ^ 32 := by
  have hdelta : s.timing.delta = s.tpDelta.toNat := rfl
  have hpos := hs.delta_pos
  have hfits := hs.fits
  rcases rxBound_cases s.timing phase with h | h <;> omega

theorem Receives.receiving_undisturbed (t : Nat) (r : RxRegs) : (s.receiving t r).undisturbed := by
  obtain ⟨-, hcalls, hsub, hret, hlock⟩ := hs.undisturbed
  refine ⟨inputNow_rst_of_inputs fun c hc => hs.noReset c ?_, ?_⟩
  · refine List.mem_of_mem_drop (i := t - s.cycle) ?_
    simpa [State.receiving, State.storeCapture] using hc
  · simp [State.receiving, State.storeCapture, hcalls, hsub, hret, hlock]

/-- A step of a reception is RX's alone. -/
theorem Receives.step_receiving {r : RxRegs} (hgot : r.got.length < 255) :
    step (s.receiving t r) = .next (endCycle (s.receiving t r) (rxStep (s.receiving t r) (s.receiving t r))) := by
  obtain ⟨-, -, hdiag, -⟩ := (trig_iff s).mp hs.trig
  have hidx : (s.receiving t r).rxByteidx.toNat = r.got.length := Nat.mod_eq_of_lt (Nat.lt_succ_of_lt hgot)
  refine step_reception _ (hs.receiving_undisturbed t r) ?_ ?_ ?_
  · simp [State.receiving, State.storeCapture]
  · simpa [State.receiving, State.storeCapture] using hdiag
  · simp only [rxIndexFault, hidx, Nat.not_le.mpr hgot, decide_false, Bool.and_false]

/-- A cycle that ends a reception with its bytes stored is RX_FRAME's last one. -/
theorem Receives.endsAs {r r' : RxRegs} {o : RxTrace} (hgot : r.got.length < 255)
    (hbytes : r'.got = o.bytes) (hstep : rxStep (s.receiving o.tEnd r) (s.receiving o.tEnd r)
      = { s.receiving o.tEnd r' with
          ring := if o.pushes (s.ringRoom o.bytes) then s.ring ++ [o.bytes] else s.ring }.endReception
        (o.event (s.ringRoom o.bytes))) :
    EndsAs s (s.receiving o.tEnd r) o := by
  refine ⟨_, .of_step (hs.step_receiving hgot) rfl, ?_⟩
  obtain ⟨-, -, -, -, hlock⟩ := hs.undisturbed
  have hlock : (s.takeEdge.passIdle (o.tEnd - s.cycle)).hostLock = false := by simpa using hlock
  have hring : (s.takeEdge.passIdle (o.tEnd - s.cycle)).ring = s.ring := by simp
  rw [hstep, endCycle_eq, State.received, State.receiving, State.receiving, hbytes, ← hlock, ← hring]
  rfl

end

section
variable {s : State} (hs : Receives s) {t : Nat} (ht : s.cycle ≤ t)
include hs ht

/-- The end of a cycle of a reception is the reception one cycle later. -/
theorem Receives.endCycle_receiving (r r' : RxRegs) :
    endCycle (s.receiving t r) (s.receiving t r') = s.receiving (t + 1) r' := by
  obtain ⟨-, -, -, -, hlock⟩ := hs.undisturbed
  have hlock : (s.takeEdge.passIdle (t - s.cycle)).hostLock = false := by simpa using hlock
  have hdrv : (s.takeEdge.passIdle (t - s.cycle)).drvLow = s.takeEdge.drvLow := by simp
  rw [endCycle_eq, State.receiving, State.receiving, State.receiving, Nat.sub_add_comm ht, State.passIdle_succ, ← hdrv,
    ← hlock]
  rfl

/-- What RX writes in a cycle is there in the next one. -/
theorem Receives.reaches_next {r r' : RxRegs} (hgot : r.got.length < 255)
    (hstep : rxStep (s.receiving t r) (s.receiving t r) = s.receiving t r') :
    Reaches (s.receiving t r) (s.receiving (t + 1) r') := by
  refine .of_step ?_ ?_
  · rw [hs.step_receiving hgot, hstep, hs.endCycle_receiving ht]
  · rw [State.receiving_cycle ht, State.receiving_cycle (Nat.le_succ_of_le ht)]

/-- A run at its phase's level is counted. -/
theorem Receives.reaches_run {got : List Byte} {phase : BitVec 3} {n bit : Nat} {shift : Byte} (hgot : got.length < 255)
    (hphase : 1 ≤ phase.toNat ∧ phase.toNat ≤ 5) (hpos : 1 ≤ n) (hn : n ≤ rxBound s.timing phase)
    (hline : ∀ k, k < n → s.lineAt (t + k) = rxLevel phase) :
    Reaches (s.receiving (t + 1) ⟨got, phase, 1, bit, shift⟩) (s.receiving (t + n) ⟨got, phase, n, bit, shift⟩) := by
  induction n with
  | zero => exact absurd hpos (Nat.not_succ_le_zero 0)
  | succ n ih =>
    rcases Nat.eq_zero_or_pos n with rfl | hpos
    · exact .refl _
    have hn' : s.cycle ≤ t + n := Nat.le_add_right_of_le ht
    have hlevel := (State.receiving_line hn' ⟨got, phase, n, bit, shift⟩).trans (hline n (Nat.lt_succ_self n))
    have hcnt := count_toNat (Nat.lt_of_le_of_lt (Nat.le_of_succ_le hn) (hs.rxBound_fits phase).2)
    refine (ih hpos (Nat.le_of_succ_le hn) fun k hk => hline k (Nat.lt_succ_of_lt hk)).trans
      (hs.reaches_next hn' hgot ?_)
    refine (rxStep_counts hphase hlevel ?_).trans ?_
    · rw [State.receiving_timing]
      exact Nat.lt_of_le_of_lt (Nat.le_of_eq hcnt) hn
    · simp only [State.rxCount, State.receiving, count_succ]

/-- A run past its phase's bound ends the reception. -/
theorem Receives.endsAs_timeout {got : List Byte} {phase : BitVec 3} {bit : Nat} {shift : Byte} (hgot : got.length < 255)
    (hphase : 1 ≤ phase.toNat ∧ phase.toNat ≤ 5)
    (hline : ∀ k, k < rxBound s.timing phase + 1 → s.lineAt (t + k) = rxLevel phase) :
    EndsAs s (s.receiving (t + 1) ⟨got, phase, 1, bit, shift⟩)
      ⟨.aborted (rxTimeout phase), t + rxBound s.timing phase, got⟩ := by
  have hend : s.cycle ≤ t + rxBound s.timing phase := Nat.le_add_right_of_le ht
  refine .of_reaches (hs.reaches_run ht hgot hphase (hs.rxBound_fits phase).1 (Nat.le_refl _) fun k hk =>
    hline k (Nat.lt_succ_of_lt hk)) (hs.endsAs (o := ⟨.aborted _, _, got⟩)
      (r' := ⟨got, phase, rxBound s.timing phase, bit, shift⟩) hgot rfl ?_)
  have hlevel := (State.receiving_line hend ⟨got, phase, rxBound s.timing phase, bit, shift⟩).trans
    (hline _ (Nat.lt_succ_self _))
  refine (rxStep_times_out hphase hlevel ?_).trans ?_
  · rw [State.receiving_timing]
    exact Nat.le_of_eq (count_toNat (hs.rxBound_fits phase).2).symm
  · simp [RxTrace.event, RxTrace.pushes, State.receiving, State.storeCapture, State.endReception]

/-! ### SAMPLE_BIT -/

/-- The high phase after a low one is counted from its first cycle. -/
theorem Receives.reaches_rise {got : List Byte} {phase : BitVec 3} {cnt bit : Nat} {shift : Byte}
    (hgot : got.length < 255) (hphase : phase = 1 ∨ phase = 3 ∨ phase = 4) (hline : s.lineAt t = true) :
    Reaches (s.receiving t ⟨got, phase, cnt, bit, shift⟩)
      (s.receiving (t + 1) ⟨got, if phase = 1 then 2 else 5, 1, bit, shift⟩) :=
  hs.reaches_next ht hgot (rxStep_rises hphase ((State.receiving_line ht _).trans hline))

/-- A low phase within its bound is waited out. -/
theorem Receives.sampling_reaches_high {got : List Byte} {n bit : Nat} {shift : Byte} (hgot : got.length < 255)
    (hn : n ≤ s.timing.lowTmo) (hlow : ∀ k, k < n → s.lineAt (t + k) = false) (hrise : s.lineAt (t + n) = true) :
    Reaches (s.sampling t got bit shift) (s.receiving (t + n + 1) ⟨got, 5, 1, bit, shift⟩) := by
  rw [State.sampling]
  cases n with
  | zero =>
    rw [Nat.add_zero] at hrise ⊢
    rw [if_pos hrise]
    exact .refl _
  | succ n =>
    have hline : s.lineAt t = false := hlow 0 (Nat.succ_pos n)
    rw [if_neg (Bool.eq_false_iff.mp hline)]
    exact (hs.reaches_run ht hgot (phase := 4) (by decide) (Nat.succ_pos n) hn hlow).trans
      (hs.reaches_rise (Nat.le_add_right_of_le ht) hgot (by decide) hrise)

/-- SAMPLE_BIT's fault ends the reception in its cycle (42_reception.md R187); its bit is there when the high phase of the
width it has been counted to has fallen. -/
theorem Receives.sampling_bit {got : List Byte} {bit : Nat} {shift : Byte} (hgot : got.length < 255) :
    (∃ f, (sampleBitAt s.lineAt s.timing t).r = .fault f
      ∧ EndsAs s (s.sampling t got bit shift) ⟨.aborted .rxBitFault, (sampleBitAt s.lineAt s.timing t).tEnd, got⟩)
    ∨ ∃ h e, h < 2 ^ 32 ∧ s.lineAt e = false ∧ s.cycle ≤ e
      ∧ sampleBitAt s.lineAt s.timing t = ⟨.bit (s.timing.classify h), h, e⟩
      ∧ Reaches (s.sampling t got bit shift) (s.receiving e ⟨got, 5, h, bit, shift⟩) := by
  rcases sampleBitAt_ends s.lineAt s.timing t with ⟨hlow, ho⟩ | ⟨n, hn, hlow, hrise, hhigh⟩
  · have hline : s.lineAt t = false := hlow 0 (Nat.succ_pos _)
    refine .inl ⟨.lowStuck, by rw [ho], ?_⟩
    rw [ho, State.sampling, if_neg (Bool.eq_false_iff.mp hline)]
    exact hs.endsAs_timeout ht hgot (phase := 4) (by decide) hlow
  have hn' : s.cycle ≤ t + n := Nat.le_add_right_of_le ht
  have hreach := hs.sampling_reaches_high ht (bit := bit) (shift := shift) hgot hn hlow hrise
  rcases hhigh with ⟨hhigh, ho⟩ | ⟨h, hpos, hh, hhigh, hfall, ho⟩
  · refine .inl ⟨.highStuck, by rw [ho], ?_⟩
    rw [ho]
    exact .of_reaches hreach (hs.endsAs_timeout hn' hgot (phase := 5) (by decide) hhigh)
  · exact .inr ⟨h, t + n + h, Nat.lt_of_le_of_lt hh (hs.rxBound_fits 5).2, hfall, Nat.le_add_right_of_le hn', ho,
      hreach.trans (hs.reaches_run hn' hgot (by decide) hpos hh hhigh)⟩

/-- Every bit before the eighth begins the next SAMPLE_BIT in its own guard. -/
theorem Receives.reaches_next_bit {got : List Byte} {h bit : Nat} {shift : Byte} (hgot : got.length < 255)
    (hh : h < 2 ^ 32) (hfall : s.lineAt t = false) (hbit : bit < 7) :
    Reaches (s.receiving t ⟨got, 5, h, bit, shift⟩)
      (s.sampling t got (bit + 1) (setBit (if bit = 0 then 0 else shift) (7 - bit) (s.timing.classify h))) := by
  have hne : BitVec.ofNat 3 bit ≠ 7 := fun heq => by
    have := congrArg BitVec.toNat heq
    rw [BitVec.toNat_ofNat, Nat.mod_eq_of_lt (by omega)] at this
    exact absurd this (by simp; omega)
  have hshift := s.receiving_shiftIn t h got (Nat.le_of_lt hbit) shift (s.timing.classify h)
  rw [State.sampling, if_neg (Bool.eq_false_iff.mp hfall)]
  refine hs.reaches_next ht hgot ((State.receiving_rxStep_bit ht hh hfall).trans ?_)
  rw [rxBitDone, hshift]
  simp only [State.receiving, hne, if_false, State.rxGo, BitVec.ofNat_add]
  rfl

end

/-- SAMPLE_BYTE from its bit `bit` on. -/
theorem Receives.sampling_bits {s : State} (hs : Receives s) {t : Nat} (ht : s.cycle ≤ t) {got : List Byte}
    {bit k : Nat} {shift : Byte} (hgot : got.length < 255) (hbit : bit + k = 7) :
    let o := sampleBitsAt s.lineAt s.timing (k + 1) t (if bit = 0 then 0 else shift)
    (∃ f, o.r = .fault f ∧ EndsAs s (s.sampling t got bit shift) ⟨.aborted .rxBitFault, o.tEnd, got⟩)
    ∨ ∃ x v, o.r = .byte x ∧ s.cycle ≤ o.tEnd ∧ Reaches (s.sampling t got bit shift) v ∧ ByteDue s o.tEnd got x v := by
  have hk : 7 - bit = k := by omega
  rcases hs.sampling_bit ht (bit := bit) (shift := shift) hgot with ⟨f, hf, hends⟩ | ⟨h, e, hh, hfall, he, ho, hreach⟩
  · exact .inl ⟨f, by rw [sampleBitsAt_fault rfl hf], by rw [sampleBitsAt_fault rfl hf]; exact hends⟩
  have hshift := s.receiving_shiftIn e h got (bit := bit) (by omega) shift (s.timing.classify h)
  rw [hk] at hshift
  simp only [sampleBitsAt, ho]
  cases k with
  | zero =>
    obtain rfl : bit = 7 := hbit
    refine .inr ⟨_, _, rfl, he, hreach, hfall, h, shift, rfl, ?_⟩
    rw [State.receiving_rxStep_bit he hh hfall, rxBitDone, hshift]
    rfl
  | succ k =>
    have hnext := hreach.trans (hs.reaches_next_bit he hgot hh hfall (by omega))
    rw [hk] at hnext
    rcases hs.sampling_bits he (bit := bit + 1) (k := k) (shift := setBit (if bit = 0 then 0 else shift) (k + 1)
      (s.timing.classify h)) hgot (by omega) with ⟨f, hf, hends⟩ | ⟨x, v, hx, hv, hreach, hdue⟩
    · exact .inl ⟨f, hf, .of_reaches hnext hends⟩
    · exact .inr ⟨x, v, hx, hv, hnext.trans hreach, hdue⟩

/-! ### A byte -/

theorem Memory.writeFrom_append (m : Memory) (i : Nat) (b : List Byte) (x : Byte) :
    m.writeFrom i (b ++ [x]) = (m.writeFrom i b).write (i + b.length) x := by
  induction b generalizing m i with
  | nil => rfl
  | cons y b ih =>
    rw [List.cons_append, Memory.writeFrom, ih, Memory.writeFrom, List.length_cons, Nat.add_right_comm]
    rfl

/-- The frame length of the bytes captured so far, by their tag (42_reception.md R185). -/
def announced (got : List Byte) : Nat := frameLen (got.headD 0)

/-- A complete byte is stored behind the others; the length is the tag's (42_reception.md R185, R186). -/
theorem State.receiving_rxByteDone (s : State) (t h : Nat) {got : List Byte} (shift x : Byte) (hgot : got.length < 255) :
    let v := s.receiving t ⟨got, 5, h, 7, shift⟩
    let w := s.receiving t ⟨got ++ [x], 5, h, 0, x⟩
    rxByteDone v v x = if got.length + 1 < announced (got ++ [x]) then w.rxGo 4
      else State.endCapture v w (w.rxBuf.take (announced (got ++ [x]))) := by
  intro v w
  have hidx : v.rxByteidx.toNat = got.length := Nat.mod_eq_of_lt (Nat.lt_succ_of_lt hgot)
  have hlen : (if v.rxByteidx = 0 then frameLen x else v.rxLen.toNat) = announced (got ++ [x]) := by
    cases hg : got with
    | nil =>
      rw [hg] at hidx
      rw [if_pos (BitVec.eq_of_toNat_eq hidx)]
      rfl
    | cons y r =>
      have hne : v.rxByteidx ≠ 0 := fun h => by simp [h, hg] at hidx
      rw [if_neg hne]
      show (s.receiving t ⟨got, 5, h, 7, shift⟩).rxLen.toNat = frameLen y
      rw [hg]
      exact Nat.mod_eq_of_lt (Nat.lt_succ_of_le (frameLen_le y))
  have hw : w = { v with
      rxShift := x
      rxBitidx := 0
      rxBuf := v.rxBuf.write got.length x
      rxLen := BitVec.ofNat 8 (announced (got ++ [x]))
      rxByteidx := v.rxByteidx + 1 } := by
    have hbuf := (s.takeEdge.passIdle (t - s.cycle)).rxBuf.writeFrom_append 0 got x
    have hcount : BitVec.ofNat 8 (got ++ [x]).length = BitVec.ofNat 8 got.length + 1 := by
      rw [List.length_append]
      exact BitVec.ofNat_add ..
    rw [Nat.zero_add] at hbuf
    simp only [w, v, State.receiving, State.storeCapture, hbuf, hcount]
    cases got <;> rfl
  simp only [rxByteDone, hidx, hlen, hw]

/-- SAMPLE_BYTE from its start. -/
theorem Receives.sampling_byte {s : State} (hs : Receives s) {t : Nat} (ht : s.cycle ≤ t) {got : List Byte} {shift : Byte}
    (hgot : got.length < 255) :
    let o := sampleByteAt s.lineAt s.timing t
    (∃ f, o.r = .fault f ∧ EndsAs s (s.sampling t got 0 shift) ⟨.aborted .rxBitFault, o.tEnd, got⟩)
    ∨ ∃ x v, o.r = .byte x ∧ s.cycle ≤ o.tEnd ∧ Reaches (s.sampling t got 0 shift) v ∧ ByteDue s o.tEnd got x v :=
  hs.sampling_bits ht (bit := 0) (k := 7) hgot rfl

/-- The last byte ends the reception (42_reception.md R188, R189). -/
theorem Receives.endsAs_last {s : State} (hs : Receives s) {t : Nat} {got : List Byte} {x : Byte} {v : State}
    (hdue : ByteDue s t got x v) (hlen : got.length + 1 = announced (got ++ [x])) :
    EndsAs s v ⟨.complete, t, got ++ [x]⟩ := by
  have hmax : announced (got ++ [x]) ≤ 255 := frameLen_le _
  have hgot : got.length < 255 := by omega
  obtain ⟨-, h, shift, rfl, hstep⟩ := hdue
  have htake : (s.receiving t ⟨got ++ [x], 5, h, 0, x⟩).rxBuf.take (announced (got ++ [x])) = got ++ [x] := by
    have hbytes : (got ++ [x]).length = announced (got ++ [x]) := by rw [List.length_append, ← hlen]; rfl
    have hwf : (s.takeEdge.passIdle (t - s.cycle)).rxBuf.wf = true := by simpa using hs.canonical
    rw [← hbytes]
    exact Memory.take_writeFrom hwf (hbytes ▸ hmax)
  have hring : (s.receiving t ⟨got ++ [x], 5, h, 0, x⟩).ring = s.ring := by simp [State.receiving, State.storeCapture]
  refine hs.endsAs (o := ⟨.complete, t, got ++ [x]⟩) (r' := ⟨got ++ [x], 5, h, 0, x⟩) hgot rfl (hstep.trans ?_)
  rw [State.receiving_rxByteDone s t h shift x hgot, if_neg (by omega), htake, State.endCapture_eq,
    State.receiving_ringRoom, hring]
  simp only [RxTrace.pushes, RxTrace.event, decide_true, Bool.true_and]

/-- Every other byte begins the next SAMPLE_BYTE in its last bit's guard (42_reception.md R186). -/
theorem Receives.reaches_next_byte {s : State} (hs : Receives s) {t : Nat} (ht : s.cycle ≤ t) {got : List Byte} {x : Byte}
    {v : State} (hdue : ByteDue s t got x v) (hlen : got.length + 1 < announced (got ++ [x])) :
    Reaches v (s.sampling t (got ++ [x]) 0 x) := by
  have hmax : announced (got ++ [x]) ≤ 255 := frameLen_le _
  have hgot : got.length < 255 := by omega
  obtain ⟨hfall, h, shift, rfl, hstep⟩ := hdue
  rw [State.sampling, if_neg (Bool.eq_false_iff.mp hfall)]
  refine hs.reaches_next ht hgot (hstep.trans ?_)
  rw [State.receiving_rxByteDone s t h shift x hgot, if_pos hlen]
  rfl

/-- The bytes to come, when one is complete (42_reception.md R186 to R189). -/
theorem Receives.endsAs_bytes {s : State} (hs : Receives s) {t : Nat} (ht : s.cycle ≤ t) {got : List Byte} {x : Byte}
    {k : Nat} {v : State} (hdue : ByteDue s t got x v) (hlen : got.length + 1 + k = announced (got ++ [x])) :
    EndsAs s v (rxBytesAt s.lineAt s.timing k t (got ++ [x])) := by
  induction k generalizing t got x v with
  | zero =>
    rw [rxBytesAt]
    exact hs.endsAs_last hdue hlen
  | succ k ih =>
    have hmax : announced (got ++ [x]) ≤ 255 := frameLen_le _
    have hbytes : (got ++ [x]).length = got.length + 1 := List.length_append
    have hnext := hs.reaches_next_byte ht hdue (by omega)
    rw [rxBytesAt]
    rcases hs.sampling_byte ht (got := got ++ [x]) (shift := x) (by omega) with
      ⟨f, hf, hends⟩ | ⟨y, w, hy, ht', hreach, hdue'⟩
    · simp only [hf]
      exact .of_reaches hnext hends
    · have htag : announced (got ++ [x] ++ [y]) = announced (got ++ [x]) := by cases got <;> rfl
      have hlen' : (got ++ [x]).length + 1 + k = announced (got ++ [x] ++ [y]) := by omega
      simp only [hy]
      exact .of_reaches (hnext.trans hreach) (ih ht' hdue' hlen')

/-- The cells of a frame (42_reception.md R185, R186). -/
theorem Receives.endsAs_body {s : State} (hs : Receives s) {t : Nat} (ht : s.cycle ≤ t) (shift : Byte) :
    EndsAs s (s.sampling t [] 0 shift) (rxBodyAt s.lineAt s.timing t) := by
  rw [rxBodyAt]
  rcases hs.sampling_byte ht (got := []) (shift := shift) (by decide) with
    ⟨f, hf, hends⟩ | ⟨x, v, hx, ht', hreach, hdue⟩
  · simp only [hf]
    exact hends
  · have hpos := frameLen_pos x
    have hlen : ([] : List Byte).length + 1 + (frameLen x - 1) = announced ([] ++ [x]) := Nat.add_sub_cancel' hpos
    have hends := hs.endsAs_bytes ht' hdue hlen
    simp only [hx]
    exact .of_reaches hreach hends

/-! ### The preamble -/

/-- The state in the trigger cycle, with the entry's writes. -/
theorem State.receiving_start (s : State) : s.receiving s.cycle ⟨[], 1, 1, 0, s.rxShift⟩ = s.takeEdge := by
  rw [State.receiving, Nat.sub_self]
  rfl

/-- The step of the trigger cycle is the reception's first one. -/
theorem Receives.reaches_start {s : State} (hs : Receives s) :
    Reaches s (s.receiving (s.cycle + 1) ⟨[], 1, 1, 0, s.rxShift⟩) := by
  rw [← hs.endCycle_receiving (Nat.le_refl _) ⟨[], 1, 1, 0, s.rxShift⟩, State.receiving_start]
  exact .of_step (step_trig hs.undisturbed hs.trig) rfl

/-- In the first low cycle after the high phase a short one ends the reception, and any other begins the bit-sync
(42_reception.md R183, R184). -/
theorem Receives.syncHigh_falls {s : State} (hs : Receives s) {t m : Nat} (ht : s.cycle ≤ t) (hmax : m ≤ s.timing.highTmo)
    (hfall : s.lineAt t = false) (shift : Byte) :
    (m < s.timing.syncHighMin → EndsAs s (s.receiving t ⟨[], 2, m, 0, shift⟩) ⟨.aborted .rxShortHigh, t, []⟩)
    ∧ (s.timing.syncHighMin ≤ m →
      Reaches (s.receiving t ⟨[], 2, m, 0, shift⟩) (s.receiving (t + 1) ⟨[], 3, 1, 0, shift⟩)) := by
  have hcnt : (s.receiving t ⟨[], 2, m, 0, shift⟩).rxCnt.toNat = m :=
    count_toNat (Nat.lt_of_le_of_lt hmax (hs.rxBound_fits 2).2)
  have hline := (State.receiving_line ht ⟨[], 2, m, 0, shift⟩).trans hfall
  have hstep := rxStep_syncHigh_falls rfl hline
  rw [hcnt, State.receiving_timing] at hstep
  constructor
  · intro hshort
    refine hs.endsAs (o := ⟨.aborted .rxShortHigh, t, []⟩) (r' := ⟨[], 2, m, 0, shift⟩) (Nat.succ_pos _) rfl ?_
    rw [hstep, if_pos hshort]
    simp [RxTrace.event, RxTrace.pushes, State.receiving, State.storeCapture]
  · intro hmin
    refine hs.reaches_next ht (Nat.succ_pos _) ?_
    rw [hstep, if_neg (Nat.not_lt.mpr hmin)]
    rfl

/-- From the first cycle of the bit-sync low on: a low phase past its bound, or the cells. -/
theorem Receives.endsAs_bitSync {s : State} (hs : Receives s) {t k : Nat} (ht : s.cycle ≤ t) (hpos : 0 < k)
    (hk : k ≤ s.timing.lowTmo) (hlow : ∀ j, j < k → s.lineAt (t + j) = false) (hcell : s.lineAt (t + k) = true)
    (shift : Byte) :
    EndsAs s (s.receiving (t + 1) ⟨[], 3, 1, 0, shift⟩) (rxBodyAt s.lineAt s.timing (t + k)) := by
  have hk' : s.cycle ≤ t + k := Nat.le_add_right_of_le ht
  have hbody := hs.endsAs_body hk' shift
  rw [State.sampling, if_pos hcell] at hbody
  exact .of_reaches (hs.reaches_run ht (phase := 3) (by decide) (by decide) hpos hk hlow)
    (.of_reaches (hs.reaches_rise hk' (by decide) (by decide) hcell) hbody)

/-- The receiver's cycles from a trigger to the end of the reception, phase by phase (42_reception.md R181 to R187). -/
theorem Receives.endsAs_frame {s : State} (hs : Receives s) : EndsAs s s (rxFrameAt s.lineAt s.timing s.cycle) := by
  obtain ⟨-, -, -, -, -, -, hline⟩ := (trig_iff s).mp hs.trig
  have hstart : s.lineAt s.cycle = false := (s.line_passIdle 0).symm.trans hline
  refine .of_reaches hs.reaches_start ?_
  rcases rxFrameAt_ends s.lineAt s.timing s.cycle with ⟨hlow, ho⟩ | ⟨n, hn, hlow, hrise, hrest⟩
  · rw [ho]
    exact hs.endsAs_timeout (Nat.le_refl _) (phase := 1) (by decide) (by decide) hlow
  have hn' : s.cycle ≤ s.cycle + n := Nat.le_add_right ..
  refine .of_reaches (hs.reaches_run (Nat.le_refl _) (phase := 1) (by decide) (by decide) (run_pos hstart hrise) hn hlow) ?_
  refine .of_reaches (hs.reaches_rise hn' (by decide) (by decide) hrise) ?_
  rcases hrest with ⟨hhigh, ho⟩ | ⟨m, hm, hmax, hhigh, hfall, hrest⟩
  · rw [ho]
    exact hs.endsAs_timeout hn' (phase := 2) (by decide) (by decide) hhigh
  have hm' : s.cycle ≤ s.cycle + n + m := Nat.le_add_right_of_le hn'
  refine .of_reaches (hs.reaches_run hn' (phase := 2) (by decide) (by decide) hm hmax hhigh) ?_
  obtain ⟨hends, hgo⟩ := hs.syncHigh_falls hm' hmax hfall s.rxShift
  rcases hrest with ⟨hshort, ho⟩ | ⟨hmin, ⟨hbs, ho⟩ | ⟨k, hk, hkmax, hbs, hcell, ho⟩⟩ <;> rw [ho]
  · exact hends hshort
  · exact .of_reaches (hgo hmin) (hs.endsAs_timeout hm' (phase := 3) (by decide) (by decide) hbs)
  · exact .of_reaches (hgo hmin) (hs.endsAs_bitSync hm' hk hkmax hbs hcell s.rxShift)

/-- Settles O26: the clock cycles reach the state that RX_FRAME gives without its reply. -/
theorem receiverStepsMakeRxFrame : Obligations.ReceiverStepsMakeRxFrame := by
  intro s hu hrst htrig hwf hdelta hfits
  obtain ⟨u, ⟨n, hn, hsteps⟩, heq⟩ := Receives.endsAs_frame ⟨hu, hrst, htrig, hwf, hdelta, hfits⟩
  have hcycle : ((s.received (rxFrameAt s.lineAt s.timing s.cycle)).passIdle 1).cycle = s.cycle + n := by rw [← hn, heq]
  have hreplies : s.replies = (s.received (rxFrameAt s.lineAt s.timing s.cycle)).replies := by
    simp [State.received, State.storeCapture]
  refine ⟨_, u, exec_rxFrame htrig rfl, ?_, heq.trans ?_⟩
  · rw [← hsteps]
    exact congrArg (stepN · s) (Nat.sub_eq_of_eq_add' hcycle)
  · rw [hreplies]
    rfl

end Sys2Proof.Machine
end

section
/-! SUPPORT. Obligation O27: START_FRAME drives its waveform, SYNC and then a bit-sync of two levels. -/

namespace Sys2Proof.Machine

theorem startWave_eq_highLow (p : Timing) (n : Nat) :
    startWave p n = syncWave n ++ highLow p.bitSync p.bitSync := rfl

/-- Within SYNC's low phase (30_encoding.md R102). -/
theorem startWave_sync {p : Timing} {n k : Nat} (h : k < n) : (startWave p n)[k]? = some true := by
  rw [startWave, List.getElem?_append_left (by simpa using h), syncWave, List.getElem?_replicate, if_pos h]

/-- Behind SYNC (30_encoding.md R103). -/
theorem startWave_bitSync {p : Timing} {n k : Nat} (h : n ≤ k) :
    (startWave p n)[k]? = (highLow p.bitSync p.bitSync)[k - n]? := by
  rw [startWave_eq_highLow, List.getElem?_append_right (by simpa using h), syncWave_length]

/-- Settles O27: by the three parts of the waveform. -/
theorem startFrameDrivesThePreamble : Obligations.StartFrameDrivesThePreamble := by
  intro s SL hSL
  obtain rfl : SL = s.syncLowCyc := hSL
  have hunits : s.timing.bitSync = 8 * s.tpDelta.toNat := rfl
  refine ⟨_, rfl, s.driveWave_reply_onlyLineDriven _ _ _, ?cycle, fun k hk => ?sync, fun k hk hend => ?high,
    fun k hk hend => ?low, by simp⟩
  case cycle => simp [two_mul_bitSync, Nat.add_assoc]
  case sync => exact (s.drivenAt_driveWave_reply _ _ _ k).trans (startWave_sync hk)
  case high =>
    rw [State.drivenAt_driveWave_reply, startWave_bitSync hk]
    exact highLow_high _ (by omega)
  case low =>
    rw [State.drivenAt_driveWave_reply, startWave_bitSync (Nat.le_of_add_right_le hk)]
    exact highLow_low (by omega) (by omega)

end Sys2Proof.Machine
end

section
/-! SUPPORT. Obligations O36 and O38: ARB's clock cycles while it owns the line. In every cycle of Starting and Sending the
state is that of the first cycle some cycles later, but for ARB's registers, DRV_LOW and the events; a phase is a count
that runs down to 1. -/

namespace Sys2Proof.Machine

/-! ### Cycles without an event -/

/-- `n` steps lead from `s` to `u`, and the event history is that of `s` from the start to the end of them. -/
def ReachesSilently (n : Nat) (s u : State) : Prop :=
  stepN n s = some u ∧ ∀ k v, k ≤ n → stepN k s = some v → v.events = s.events

theorem ReachesSilently.refl (s : State) : ReachesSilently 0 s s := by
  refine ⟨rfl, fun k v hk hv => ?_⟩
  obtain rfl : k = 0 := Nat.le_zero.mp hk
  cases hv
  rfl

theorem ReachesSilently.of_step {s t : State} (h : step s = .next t) (hev : t.events = s.events) :
    ReachesSilently 1 s t := by
  have hone : stepN 1 s = some t := by simp only [stepN, h]
  refine ⟨hone, fun k v hk hv => ?_⟩
  rcases Nat.le_one_iff_eq_zero_or_eq_one.mp hk with rfl | rfl
  · cases hv
    rfl
  · cases hone.symm.trans hv
    exact hev

theorem ReachesSilently.trans {m n : Nat} {s t u : State} (h : ReachesSilently m s t) (k : ReachesSilently n t u) :
    ReachesSilently (m + n) s u := by
  obtain ⟨hsteps, hsilent⟩ := h
  refine ⟨(stepN_add hsteps).trans k.1, fun i v hi hv => ?_⟩
  rcases Nat.le_total i m with him | hmi
  · exact hsilent i v him hv
  · obtain ⟨j, rfl⟩ := Nat.exists_eq_add_of_le hmi
    rw [stepN_add hsteps] at hv
    exact (k.2 j v (Nat.le_of_add_le_add_left hi) hv).trans (hsilent m t (Nat.le_refl m) hsteps)

/-! ### The state while ARB transmits -/

/-- The cycles of a waveform change what time changes, and LINE_PREV. -/
theorem State.passWave_eq (s : State) (w : List Bool) : ∃ prev, s.passWave w = { s with
    linePrev := prev
    cycle := s.cycle + w.length
    inputs := s.inputs.drop w.length
    drvTrace := w.reverse ++ s.drvTrace } := by
  have hpass := (s.passWave_onlyTimePassed w).1
  rw [State.passWave_cycle, State.passWave_inputs, State.passWave_drvTrace, State.passWave_replies] at hpass
  exact ⟨_, hpass⟩

/-- What ARB writes while it transmits: ARB_STATE, ARB_SUB, ARB_CNT, TX_BYTEIDX, TX_BITIDX, DRV_LOW and the events. -/
structure TxRegs where
  state : BitVec 3
  sub : BitVec 2
  cnt : Nat
  byte : Byte
  bit : BitVec 3
  low : Bool
  events : List Raised

/-- The state in a cycle of a transmission whose first cycle is `s`, after the values `w` of DRV_LOW. -/
def State.transmitting (s : State) (w : List Bool) (r : TxRegs) : State :=
  { s.passWave w with
    arbState := r.state
    arbSub := r.sub
    arbCnt := count r.cnt
    txByteidx := r.byte
    txBitidx := r.bit
    drvLow := r.low
    events := r.events }

/-- The first cycle of a transmission. -/
theorem State.transmitting_self {s : State} {r : TxRegs}
    (hr : r = ⟨s.arbState, s.arbSub, r.cnt, s.txByteidx, s.txBitidx, s.drvLow, s.events⟩) (hcnt : s.arbCnt = count r.cnt) :
    s.transmitting [] r = s := by
  rw [State.transmitting, ← hcnt, hr]
  rfl

/-- The value of bit `k` of the held frame, its bits counted as they are sent (30_encoding.md R110). -/
def State.heldBit (s : State) (k : Nat) : Bool := s.txBit (k / 8) (7 - k % 8)

/-- ARB's registers in the first cycle of cell `k` of the held frame (44_arbitration.md R230). -/
def State.cell (s : State) (ev : List Raised) (k : Nat) : TxRegs :=
  ⟨arbSendingCode, 0, s.timing.cellHigh (s.heldBit k), BitVec.ofNat 8 (k / 8), BitVec.ofNat 3 (7 - k % 8), false, ev⟩

/-- In the cycle of the transmission after the values `w` of DRV_LOW, with the registers `r`, ARB writes `r'`. -/
def State.arbWrites (s : State) (w : List Bool) (r r' : TxRegs) : Prop :=
  arbStep (s.transmitting w r) (s.transmitting w r) = s.transmitting w r'

/-- ARB is in a sub-phase of Starting or Sending, at a byte TX_FRAME has (10_state.md R40, 20_memory.md R71). -/
def TxRegs.defined (r : TxRegs) : Prop :=
  r.state = arbStartingCode ∧ r.sub.toNat ≤ 2 ∨ r.state = arbSendingCode ∧ r.sub.toNat ≤ 1 ∧ r.byte.toNat < 255

theorem State.transmitting_timing (s : State) (w : List Bool) (r : TxRegs) : (s.transmitting w r).timing = s.timing := by
  simp [State.transmitting, State.timing]

theorem State.transmitting_cycle (s : State) (w : List Bool) (r : TxRegs) :
    (s.transmitting w r).cycle = s.cycle + w.length := by
  simp [State.transmitting]

theorem State.transmitting_txBit (s : State) (w : List Bool) (r : TxRegs) (j i : Nat) :
    (s.transmitting w r).txBit j i = s.txBit j i := by
  simp [State.transmitting, State.txBit]

theorem State.transmitting_raise (s : State) (w : List Bool) (r : TxRegs) (e : Event) :
    (s.transmitting w r).raise e = s.transmitting w { r with events := ⟨s.cycle + w.length, e⟩ :: r.events } := by
  rw [← s.transmitting_cycle w r]
  rfl

/-- The line in a cycle of the transmission. -/
theorem State.transmitting_line (s : State) (w : List Bool) (r : TxRegs) :
    (s.transmitting w r).line = (s.inputAt (s.cycle + w.length)).line.level r.low := by
  simp [State.transmitting, State.line, State.inputNow, State.inputAt, State.idleIn, List.headD_eq_head?_getD]

/-! ### A transmission's cycles -/

/-- A configured block without a probe or a reception, of which nothing is asked until the transmission is over. -/
structure Transmits (s : State) : Prop where
  undisturbed : s.undisturbed
  noReset : ∀ c ∈ s.inputs, c.rst = false
  configured : s.cfgValid = true
  noProbe : s.diagMode = false
  noReception : s.rxActive = false

section
variable {s : State} (hs : Transmits s)
include hs

theorem Transmits.transmitting_undisturbed (w : List Bool) (r : TxRegs) : (s.transmitting w r).undisturbed := by
  obtain ⟨-, hcalls, hsub, hret, hlock⟩ := hs.undisturbed
  refine ⟨inputNow_rst_of_inputs fun c hc => hs.noReset c (List.mem_of_mem_drop (i := w.length) ?_), ?_⟩
  · simpa [State.transmitting] using hc
  · simp [State.transmitting, hcalls, hsub, hret, hlock]

/-- The receiver is masked in Starting and Sending, so that ARB is never frozen (44_arbitration.md R216). -/
theorem Transmits.arbRuns {w : List Bool} {r : TxRegs} (hr : r.defined) : (s.transmitting w r).arbRuns false = true := by
  have hmask : (s.transmitting w r).rxArm = false := by
    rcases hr with ⟨hst, -⟩ | ⟨hst, -⟩ <;> simp [State.rxArm, State.transmitting, hst]
  have htrig : (s.transmitting w r).trig = false := by rw [State.trig, hmask, Bool.false_and]
  have hprobe : (s.transmitting w r).diagMode = false := by simp [State.transmitting, hs.noProbe]
  have hrx : (s.transmitting w r).rxActive = false := by simp [State.transmitting, hs.noReception]
  have hcfg : (s.transmitting w r).cfgValid = true := by simp [State.transmitting, hs.configured]
  simp [State.arbRuns, State.frozen, htrig, hprobe, hrx, hcfg]

/-- A step of a transmission is ARB's alone. -/
theorem Transmits.step_transmitting {w : List Bool} {r : TxRegs} (hr : r.defined) : step (s.transmitting w r)
    = .next (endCycle (s.transmitting w r) (arbStep (s.transmitting w r) (s.transmitting w r))) := by
  refine step_arb _ (hs.transmitting_undisturbed w r) ?_ (hs.arbRuns hr) ?_
  · simp [State.transmitting, hs.noReception]
  · rcases hr with ⟨hst, -⟩ | ⟨hst, -, hbyte⟩
    · simp [State.arbFault, State.arbNoEffect, State.transmitting, hst]
    · simp [State.arbFault, State.arbNoEffect, State.transmitting, hst, Nat.not_le.mpr hbyte]

/-- The end of a cycle of a transmission is the transmission one value of DRV_LOW later. -/
theorem Transmits.endCycle_transmitting (w : List Bool) (r r' : TxRegs) :
    endCycle (s.transmitting w r) (s.transmitting w r') = s.transmitting (w ++ [r.low]) r' := by
  obtain ⟨-, -, -, -, hlock⟩ := hs.undisturbed
  have hlock : (s.passWave w).hostLock = false := by simpa using hlock
  rw [endCycle_eq, State.transmitting, State.transmitting, State.transmitting, State.passWave_append, ← hlock]
  rfl

/-- What ARB writes in a cycle is there in the next one. -/
theorem Transmits.step_writes {w : List Bool} {r r' : TxRegs} (hr : r.defined) (hwrites : s.arbWrites w r r') :
    step (s.transmitting w r) = .next (s.transmitting (w ++ [r.low]) r') := by
  rw [hs.step_transmitting hr, hwrites, hs.endCycle_transmitting]

/-- ARB_CNT counts a phase down to its last cycle, with DRV_LOW unchanged (44_arbitration.md R228, R230). -/
theorem Transmits.silently_counts {w : List Bool} {r : TxRegs} (hr : r.defined) (hpos : 1 ≤ r.cnt)
    (hcount : ∀ k c, 1 < c → k + c = r.cnt →
      s.arbWrites (w ++ List.replicate k r.low) { r with cnt := c } { r with cnt := c - 1 }) :
    ReachesSilently (r.cnt - 1) (s.transmitting w r)
      (s.transmitting (w ++ List.replicate (r.cnt - 1) r.low) { r with cnt := 1 }) := by
  have hrun : ∀ k c, 1 ≤ c → k + c = r.cnt → ReachesSilently k (s.transmitting w r)
      (s.transmitting (w ++ List.replicate k r.low) { r with cnt := c }) := by
    intro k
    induction k with
    | zero =>
      intro c _ hc
      obtain rfl : c = r.cnt := (Nat.zero_add c).symm.trans hc
      rw [List.replicate_zero, List.append_nil]
      exact .refl _
    | succ k ih =>
      intro c hc hk
      have hk : k + (c + 1) = r.cnt := by omega
      have hnext := hs.step_writes (r := { r with cnt := c + 1 }) hr (hcount k (c + 1) (Nat.lt_add_of_pos_left hc) hk)
      rw [List.replicate_succ', ← List.append_assoc]
      exact (ih (c + 1) (Nat.le_add_left 1 c) hk).trans (.of_step hnext rfl)
  exact hrun (r.cnt - 1) 1 (Nat.le_refl 1) (Nat.sub_add_cancel hpos)

/-- A phase: its count, and the last cycle, which leaves it. -/
theorem Transmits.silently_phase {w : List Bool} {r r' : TxRegs} (hr : r.defined) (hev : r'.events = r.events)
    (hpos : 1 ≤ r.cnt)
    (hcount : ∀ k c, 1 < c → k + c = r.cnt →
      s.arbWrites (w ++ List.replicate k r.low) { r with cnt := c } { r with cnt := c - 1 })
    (hlast : s.arbWrites (w ++ List.replicate (r.cnt - 1) r.low) { r with cnt := 1 } r') :
    ReachesSilently r.cnt (s.transmitting w r) (s.transmitting (w ++ List.replicate r.cnt r.low) r') := by
  have hleave := ReachesSilently.of_step (hs.step_writes (r := { r with cnt := 1 }) hr hlast) hev
  have hall := (hs.silently_counts hr hpos hcount).trans hleave
  rwa [List.append_assoc, ← List.replicate_succ', Nat.sub_add_cancel hpos] at hall

end

/-! ### Counts -/

theorem count_sub_one {n : Nat} (h : 1 ≤ n) : count n - 1 = count (n - 1) := by
  obtain ⟨m, rfl⟩ := Nat.exists_eq_add_of_le' h
  rw [← count_succ, BitVec.add_sub_cancel, Nat.add_sub_cancel]

theorem count_inj {m n : Nat} (hm : m < 2 ^ 32) (hn : n < 2 ^ 32) : count m = count n ↔ m = n := by
  rw [← BitVec.toNat_inj, count_toNat hm, count_toNat hn]

end Sys2Proof.Machine
end

section
/-! SUPPORT. Obligation O36: Starting in its clock cycles. SYNC_LOW, BS_HIGH and BS_LOW are a phase each, and the first cycle
of SYNC_LOW alone raises an event. -/

namespace Sys2Proof.Machine

/-! ### One cycle -/

/-- ARB's registers in a cycle of Starting: the sub-phase, its count, and DRV_LOW (44_arbitration.md R228). -/
def State.starting (s : State) (ev : List Raised) (sub : BitVec 2) (n : Nat) : TxRegs :=
  ⟨arbStartingCode, sub, n, s.txByteidx, s.txBitidx, sub != 1, ev⟩

theorem State.starting_defined (s : State) (ev : List Raised) {sub : BitVec 2} (n : Nat) (h : sub.toNat ≤ 2) :
    (s.starting ev sub n).defined := .inl ⟨rfl, h⟩

section
variable {s : State} {w : List Bool} {ev : List Raised} {n : Nat} (hpos : 1 ≤ n) (hn : n < 2 ^ 32)
include hpos hn

/-- SYNC_LOW: its first cycle, in which the count is the whole SYNC low, raises EV_TX_START (60_exceptions.md R316 row 10). -/
theorem State.syncLow_writes (hsync : s.syncLowCyc < 2 ^ 32) :
    let ev' := if n = s.syncLowCyc then ⟨s.cycle + w.length, .txStart (s.cycle + w.length)⟩ :: ev else ev
    s.arbWrites w (s.starting ev 0 n)
      (if 1 < n then s.starting ev' 0 (n - 1) else s.starting ev' 1 s.timing.bitSync) := by
  have hraise : State.raiseTxStart (s.transmitting w (s.starting ev 0 n)) (s.transmitting w (s.starting ev 0 n))
      = s.transmitting w (s.starting (if n = s.syncLowCyc then
          ⟨s.cycle + w.length, .txStart (s.cycle + w.length)⟩ :: ev else ev) 0 n) := by
    have hcnt : (s.transmitting w (s.starting ev 0 n)).arbCnt = count n := rfl
    have hwhole : (s.transmitting w (s.starting ev 0 n)).syncLowCyc = s.syncLowCyc := by
      simp [State.transmitting, State.syncLowCyc, State.timing]
    rw [State.raiseTxStart, hcnt, hwhole, State.transmitting_cycle]
    by_cases hfirst : n = s.syncLowCyc
    · rw [if_pos (congrArg count hfirst), if_pos hfirst]
      exact s.transmitting_raise w _ _
    · rw [if_neg (mt (count_inj hn hsync).mp hfirst), if_neg hfirst]
  intro ev'
  change startSyncLow _ _ = _
  rw [startSyncLow, hraise, State.transmitting_timing]
  simp only [State.transmitting, State.starting, count_toNat hn, count_sub_one hpos]
  split <;> rfl

theorem State.bsHigh_writes : s.arbWrites w (s.starting ev 1 n)
    (if 1 < n then s.starting ev 1 (n - 1) else s.starting ev 2 s.timing.bitSync) := by
  change startBsHigh _ _ = _
  rw [startBsHigh, State.transmitting_timing]
  simp only [State.transmitting, State.starting, count_toNat hn, count_sub_one hpos]
  split <;> rfl

theorem State.bsLow_writes : s.arbWrites w (s.starting ev 2 n)
    (if 1 < n then s.starting ev 2 (n - 1) else s.cell ev 0) := by
  change startBsLow _ _ = _
  rw [startBsLow, State.enterCell, State.transmitting_timing, State.transmitting_txBit]
  simp only [State.transmitting, State.starting, count_toNat hn, count_sub_one hpos]
  split <;> rfl

end

/-! ### The preamble -/

section
variable {s : State} (hs : Transmits s) {w : List Bool} {ev : List Raised}
include hs

/-- The rest of SYNC_LOW after its first cycle. -/
theorem Transmits.syncLow_silently {n : Nat} (hpos : 1 ≤ n) (hn : n < s.syncLowCyc) (hsync : s.syncLowCyc < 2 ^ 32) :
    ReachesSilently n (s.transmitting w (s.starting ev 0 n))
      (s.transmitting (w ++ List.replicate n true) (s.starting ev 1 s.timing.bitSync)) := by
  have hwrites : ∀ v c, 1 ≤ c → c ≤ n → s.arbWrites v (s.starting ev 0 c)
      (if 1 < c then s.starting ev 0 (c - 1) else s.starting ev 1 s.timing.bitSync) := by
    intro v c hc hle
    have h := State.syncLow_writes (w := v) (ev := ev) hc (by omega) hsync
    rwa [if_neg (show c ≠ s.syncLowCyc by omega)] at h
  refine hs.silently_phase (r := s.starting ev 0 n) (s.starting_defined ev n (by decide)) rfl hpos ?_ ?_
  · intro k c hc hk
    have hk : k + c = n := hk
    have h := hwrites (w ++ List.replicate k true) c (Nat.le_of_lt hc) (by omega)
    rwa [if_pos hc] at h
  · exact hwrites _ 1 (Nat.le_refl 1) hpos

/-- BS_HIGH and BS_LOW lead to the first cell. -/
theorem Transmits.bitSync_silently (hpos : 1 ≤ s.timing.bitSync) (hmax : s.timing.bitSync < 2 ^ 32) :
    ReachesSilently (s.timing.bitSync + s.timing.bitSync) (s.transmitting w (s.starting ev 1 s.timing.bitSync))
      (s.transmitting (w ++ bitSyncWave s.timing) (s.cell ev 0)) := by
  rw [bitSyncWave, ← List.append_assoc]
  refine .trans (hs.silently_phase (r := s.starting ev 1 s.timing.bitSync) (r' := s.starting ev 2 s.timing.bitSync)
    (s.starting_defined ev _ (by decide)) rfl hpos (fun k c hc hk => ?_) ?_)
    (hs.silently_phase (r := s.starting ev 2 s.timing.bitSync)
    (s.starting_defined ev _ (by decide)) rfl hpos (fun k c hc hk => ?_) ?_)
  · have hk : k + c = s.timing.bitSync := hk
    have h := State.bsHigh_writes (s := s) (w := w ++ List.replicate k false) (ev := ev) (Nat.le_of_lt hc) (by omega)
    rwa [if_pos hc] at h
  · exact State.bsHigh_writes (Nat.le_refl 1) (by decide)
  · have hk : k + c = s.timing.bitSync := hk
    have h := State.bsLow_writes (s := s) (w := w ++ List.replicate s.timing.bitSync false ++ List.replicate k true)
      (ev := ev) (Nat.le_of_lt hc) (by omega)
    rwa [if_pos hc] at h
  · exact State.bsLow_writes (Nat.le_refl 1) (by decide)

/-- SYNC_LOW after its first cycle. -/
theorem Transmits.syncLow_rest_silently (hpos : 1 ≤ s.syncLowCyc) (hsync : s.syncLowCyc < 2 ^ 32) :
    ReachesSilently (s.syncLowCyc - 1)
      (s.transmitting [true] (if 1 < s.syncLowCyc then s.starting ev 0 (s.syncLowCyc - 1)
        else s.starting ev 1 s.timing.bitSync))
      (s.transmitting (syncWave s.syncLowCyc) (s.starting ev 1 s.timing.bitSync)) := by
  split
  · next hmore =>
    have hrest := hs.syncLow_silently (w := [true]) (ev := ev) (Nat.le_sub_of_add_le hmore) (Nat.sub_one_lt_of_lt hmore) hsync
    rwa [List.singleton_append, ← List.replicate_succ, Nat.sub_add_cancel hpos] at hrest
  · next hone =>
    obtain hone : s.syncLowCyc = 1 := Nat.le_antisymm (Nat.le_of_not_lt hone) hpos
    rw [hone]
    exact .refl _

/-- The first cycle of Starting raises EV_TX_START, and the others lead to the first cell without an event. -/
theorem Transmits.starting_silently (hpos : 1 ≤ s.syncLowCyc) (hsync : s.syncLowCyc < 2 ^ 32)
    (hbs : 1 ≤ s.timing.bitSync) (hmax : s.timing.bitSync < 2 ^ 32) (ev : List Raised) :
    let ev' := ⟨s.cycle, .txStart s.cycle⟩ :: ev
    ∃ v, step (s.transmitting [] (s.starting ev 0 s.syncLowCyc)) = .next v ∧ v.events = ev'
      ∧ ReachesSilently (s.syncLowCyc - 1 + 2 * s.timing.bitSync) v
        (s.transmitting (startWave s.timing s.syncLowCyc) (s.cell ev' 0)) := by
  intro ev'
  have hwrites := State.syncLow_writes (w := []) (ev := ev) hpos hsync hsync
  rw [if_pos rfl] at hwrites
  have hstep := hs.step_transmitting (w := []) (s.starting_defined ev s.syncLowCyc (sub := 0) (by decide))
  rw [hwrites, hs.endCycle_transmitting] at hstep
  refine ⟨_, hstep, ?_, ?_⟩
  · split <;> rfl
  · rw [Nat.two_mul]
    exact (hs.syncLow_rest_silently hpos hsync).trans (hs.bitSync_silently hbs hmax)

end

/-- Settles O36: the first cycle of SYNC_LOW, which alone raises an event, the others, and the bit-sync. -/
theorem startingDrivesTheWholePreamble : Obligations.StartingDrivesTheWholePreamble := by
  intro s SL hu hrst hcfg hprobe hrx hst hsub hlow hSL hcnt hpos hmax hdelta hfits
  subst hSL
  have hs : Transmits s := ⟨hu, hrst, hcfg, hprobe, hrx⟩
  have hunits : s.timing.bitSync = 8 * s.tpDelta.toNat := rfl
  have hfirst : s.transmitting [] (s.starting s.events 0 s.syncLowCyc) = s :=
    State.transmitting_self (by rw [State.starting, hst, hsub, hlow]; rfl) hcnt
  obtain ⟨v, hstep, hev, hsteps, hsilent⟩ := hs.starting_silently hpos hmax (by omega) (by omega) s.events
  have hlen : s.syncLowCyc + 16 * s.tpDelta.toNat = s.syncLowCyc - 1 + 2 * s.timing.bitSync + 1 := by omega
  rw [hfirst] at hstep
  have hsucc : ∀ n, stepN (n + 1) s = stepN n v := fun n => by simp only [stepN, hstep]
  refine ⟨s.transmitting (startWave s.timing s.syncLowCyc) (s.cell (⟨s.cycle, .txStart s.cycle⟩ :: s.events) 0),
    ?steps, ?trace, rfl, fun n u hn hle hu => ?events, ?state⟩
  case steps => rw [hlen, hsucc, hsteps]
  case trace => simp [State.transmitting, startWave, syncWave, bitSyncWave, hunits]
  case events =>
    obtain ⟨k, rfl⟩ := Nat.exists_eq_add_of_le' hn
    exact (hsilent k u (by omega) (hsucc k ▸ hu)).trans hev
  case state =>
    obtain ⟨prev, hpass⟩ := s.passWave_eq (startWave s.timing s.syncLowCyc)
    rw [startWave_length, two_mul_bitSync, ← Nat.add_assoc] at hpass
    rw [State.transmitting, hpass]
    rfl

end Sys2Proof.Machine
end

section
/-! SUPPORT. Obligation O38: Sending in its clock cycles. Each cell of the held frame is a high phase and a guard, a phase
each; check 1 is made in the last cycle of the one, check 2 in the first cycle after the other, and the first check that
finds the line low ends the cells where the drive of SEND_FRAME ends. -/

namespace Sys2Proof.Machine

/-! ### The bits of a frame -/

theorem getElem?_lastBits (b : Byte) {k n : Nat} (h : k < n) : (lastBits b n)[k]? = some (b.getLsbD (n - 1 - k)) := by
  induction n generalizing k with
  | zero => exact absurd h (Nat.not_lt_zero k)
  | succ n ih =>
    cases k with
    | zero => rfl
    | succ k => rw [lastBits, List.getElem?_cons_succ, ih (Nat.lt_of_succ_lt_succ h), Nat.add_sub_cancel, Nat.sub_sub,
        Nat.add_comm 1]

/-- Bit `k` of a byte sequence as it is sent is bit `7 - k % 8` of byte `k / 8` (30_encoding.md R110). -/
theorem getElem?_bitsOf (b : List Byte) (k : Nat) : (bitsOf b)[k]? = b[k / 8]?.map fun x => x.getLsbD (7 - k % 8) := by
  induction b generalizing k with
  | nil => rfl
  | cons x b ih =>
    have hlen : (lastBits x 8).length = 8 := rfl
    rw [bitsOf_cons]
    rcases Nat.lt_or_ge k 8 with h | h
    · rw [List.getElem?_append_left h, getElem?_lastBits x h, Nat.div_eq_of_lt h, Nat.mod_eq_of_lt h]
      rfl
    · obtain ⟨m, rfl⟩ := Nat.exists_eq_add_of_le' h
      rw [List.getElem?_append_right h, hlen, Nat.add_sub_cancel, ih, Nat.add_mod_right, Nat.add_div_right m (by decide)]
      rfl

/-- The frame ARB holds (20_memory.md R74). -/
def State.heldFrame (s : State) : List Byte := s.txFrame.take s.txLen.toNat

theorem State.length_heldFrame (s : State) : s.heldFrame.length = s.txLen.toNat := Memory.take_length ..

theorem State.getElem?_bitsOf_heldFrame {s : State} {k : Nat} (h : k < 8 * s.txLen.toNat) :
    (bitsOf s.heldFrame)[k]? = some (s.heldBit k) := by
  have hbyte : k / 8 < s.txLen.toNat := by omega
  simp [getElem?_bitsOf, State.heldFrame, Memory.take, State.heldBit, State.txBit, hbyte]

theorem State.drop_bitsOf_heldFrame {s : State} {k : Nat} (h : k < 8 * s.txLen.toNat) :
    (bitsOf s.heldFrame).drop k = s.heldBit k :: (bitsOf s.heldFrame).drop (k + 1) := by
  obtain ⟨hlt, heq⟩ := List.getElem?_eq_some_iff.mp (State.getElem?_bitsOf_heldFrame h)
  rw [List.drop_eq_getElem_cons hlt, heq]

/-! ### The cells of the held frame -/

theorem toNat_cellByte {k : Nat} (hk : k < 8 * 255) : (BitVec.ofNat 8 (k / 8)).toNat = k / 8 :=
  Nat.mod_eq_of_lt (by omega)

theorem toNat_cellBit (k : Nat) : (BitVec.ofNat 3 (7 - k % 8)).toNat = 7 - k % 8 := Nat.mod_eq_of_lt (by omega)

theorem cellBit_eq_zero (k : Nat) : BitVec.ofNat 3 (7 - k % 8) = 0 ↔ k % 8 = 7 := by
  rw [← BitVec.toNat_inj, toNat_cellBit]
  exact ⟨fun h => by simp at h; omega, fun h => by simp [h]⟩

/-- The cell before a cell that is not the first (44_arbitration.md R230). -/
theorem prevCell_eq {k : Nat} (hk : 0 < k) : prevCell (k / 8) (7 - k % 8) = ((k - 1) / 8, 7 - (k - 1) % 8) := by
  rw [prevCell]
  split <;> simp only [Prod.mk.injEq] <;> omega

/-- ARB's registers in the guard of cell `k`, with `n` cycles left; after the last cell a count of 0 with the line released
is the return cycle (44_arbitration.md R229, R230; entry 14). -/
def State.guard (s : State) (ev : List Raised) (k n : Nat) (low : Bool) : TxRegs :=
  { s.cell ev k with sub := 1, cnt := n, low := low }

/-- ARB's registers after the guard of cell `k`: the next cell's, or after the last cell those of the return cycle. -/
def State.afterCell (s : State) (ev : List Raised) (k : Nat) : TxRegs :=
  if k + 1 < 8 * s.txLen.toNat then s.cell ev (k + 1) else s.guard ev k 0 false

theorem State.afterCell_keeps (s : State) (ev : List Raised) (k : Nat) :
    (s.afterCell ev k).low = false ∧ (s.afterCell ev k).events = ev := by
  rw [State.afterCell]
  split <;> exact ⟨rfl, rfl⟩

section
variable {s : State} {w : List Bool} {r : TxRegs} {k : Nat} (hk : k < 8 * s.txLen.toNat)
  (hbyte : r.byte = BitVec.ofNat 8 (k / 8)) (hbit : r.bit = BitVec.ofNat 3 (7 - k % 8))
include hk hbyte hbit

theorem State.afterGuard_transmitting : (s.transmitting w r).afterGuard = decide (0 < k) := by
  have hlen := s.txLen.isLt
  have hj := toNat_cellByte (k := k) (by omega)
  have hi := toNat_cellBit k
  have hfirst : (r.byte = 0 ∧ r.bit = 7) ↔ k = 0 := by
    rw [hbyte, hbit, ← BitVec.toNat_inj, ← BitVec.toNat_inj, hj, hi]
    show k / 8 = 0 ∧ 7 - k % 8 = 7 ↔ k = 0
    omega
  have hguard : (s.transmitting w r).afterGuard = !(r.byte == 0 && r.bit == 7) := rfl
  rw [Bool.eq_iff_iff, decide_eq_true_iff, Nat.pos_iff_ne_zero, ne_eq, ← hfirst, hguard, Bool.not_eq_true',
    ← Bool.not_eq_true, Bool.and_eq_true, beq_iff_eq, beq_iff_eq]

theorem State.lastCell_transmitting : (s.transmitting w r).lastCell = decide (8 * s.txLen.toNat ≤ k + 1) := by
  have hlen := s.txLen.isLt
  have hj := toNat_cellByte (k := k) (by omega)
  rw [Bool.eq_iff_iff]
  simp only [State.lastCell, State.transmitting, hbyte, hbit, hj, beq_iff_eq, State.passWave_txLen,
    Bool.and_eq_true, decide_eq_true_eq, cellBit_eq_zero]
  omega

end

/-! ### One cycle -/

theorem State.arbStep_high (s : State) (w : List Bool) (ev : List Raised) (k n : Nat) :
    let v := s.transmitting w { s.cell ev k with cnt := n }
    arbStep v v = sendHigh v v := rfl

theorem State.arbStep_guard (s : State) (w : List Bool) (ev : List Raised) (k n : Nat) (low : Bool) :
    let v := s.transmitting w (s.guard ev k n low)
    arbStep v v = sendGuard v v := rfl

/-- The return cycle after the last cell: check 2 (44_arbitration.md R229, R231, R232). -/
theorem State.arbStep_return (s : State) (w : List Bool) (ev : List Raised) (k : Nat) :
    let v := s.transmitting w (s.guard ev k 0 false)
    arbStep v v = if s.releasedAt (s.cycle + w.length) = true then v.sendDone
      else (v.raise (.collisionGuard v.txByteidx.toNat v.txBitidx.toNat)).toListening := by
  have hline : (s.transmitting w (s.guard ev k 0 false)).line = s.releasedAt (s.cycle + w.length) :=
    s.transmitting_line w _
  rw [← hline]
  rfl

/-- Entering a cell from the guard of another (44_arbitration.md R230). -/
theorem State.enterCell_cell {s : State} {w : List Bool} {ev : List Raised} {k m c : Nat} {j : Byte} {i : BitVec 3}
    (hm : m < 8 * 255) (hj : j = BitVec.ofNat 8 (m / 8)) (hi : i = BitVec.ofNat 3 (7 - m % 8)) :
    let v := s.transmitting w (s.guard ev k c true)
    State.enterCell v v j i = s.transmitting w (s.cell ev m) := by
  intro v
  have htiming : v.timing = s.timing := s.transmitting_timing w _
  have hbit : v.txBit (m / 8) (7 - m % 8) = s.heldBit m := s.transmitting_txBit w _ _ _
  rw [State.enterCell, htiming, hj, hi, toNat_cellByte hm, toNat_cellBit, hbit]
  rfl

/-- The guard's last cycle (44_arbitration.md R229, R230). -/
theorem State.guardEnd_cell {s : State} {w : List Bool} {ev : List Raised} {k c : Nat} (hk : k < 8 * s.txLen.toNat) :
    let v := s.transmitting w (s.guard ev k c true)
    guardEnd v v = s.transmitting w (s.afterCell ev k) := by
  intro v
  have hlast : v.lastCell = decide (8 * s.txLen.toNat ≤ k + 1) := State.lastCell_transmitting hk rfl rfl
  have hbit : v.txBitidx = 0 ↔ k % 8 = 7 := cellBit_eq_zero k
  have hlen := s.txLen.isLt
  rw [guardEnd, hlast, State.afterCell]
  rcases Nat.lt_or_ge (k + 1) (8 * s.txLen.toNat) with hmore | hend
  · rw [if_neg (by simpa using hmore), if_pos hmore]
    by_cases hlastBit : k % 8 = 7
    · rw [if_pos (hbit.mpr hlastBit)]
      refine State.enterCell_cell (by omega) ?_ ?_
      · show BitVec.ofNat 8 (k / 8) + 1 = _
        rw [show (k + 1) / 8 = k / 8 + 1 by omega]
        exact (BitVec.ofNat_add ..).symm
      · rw [show (k + 1) % 8 = 0 by omega]
        rfl
    · rw [if_neg (mt hbit.mp hlastBit)]
      refine State.enterCell_cell (by omega) ?_ ?_
      · rw [show (k + 1) / 8 = k / 8 by omega]
        rfl
      · show BitVec.ofNat 3 (7 - k % 8) - 1 = _
        rw [show 7 - k % 8 = 7 - (k + 1) % 8 + 1 by omega, BitVec.ofNat_add]
        exact BitVec.add_sub_cancel ..
  · rw [if_pos (by simpa using hend), if_neg (Nat.not_lt.mpr hend)]
    rfl

section
variable {s : State} {w : List Bool} {ev : List Raised} {k c : Nat} (hk : k < 8 * s.txLen.toNat) (hc : c < 2 ^ 32)
include hk hc

/-- BIT_HIGH of cell `k` with `c` cycles left: check 2 of the cell before in its first cycle, check 1 in its last
(44_arbitration.md R230). -/
theorem State.high_writes (hcell : s.timing.cellHigh (s.heldBit k) < 2 ^ 32) :
    s.arbWrites w { s.cell ev k with cnt := c }
      (if c = 0 then { s.cell ev k with state := arbListeningCode, cnt := c }
      else if c = s.timing.cellHigh (s.heldBit k) ∧ 0 < k ∧ s.releasedAt (s.cycle + w.length) = false then
        { s.cell ev k with
          state := arbListeningCode
          cnt := c
          events := ⟨s.cycle + w.length, .collisionGuard ((k - 1) / 8) (7 - (k - 1) % 8)⟩ :: ev }
      else if c = 1 then
        if s.releasedAt (s.cycle + w.length) = true then s.guard ev k Config.guardCyc true
        else { s.cell ev k with
          cnt := 0
          events := ⟨s.cycle + w.length, .collisionHigh (k / 8) (7 - k % 8)⟩ :: ev }
      else { s.cell ev k with cnt := c - 1 }) := by
  have hlen := s.txLen.isLt
  have hj := toNat_cellByte (k := k) (by omega)
  have hi := toNat_cellBit k
  have hline : (s.transmitting w { s.cell ev k with cnt := c }).line = s.releasedAt (s.cycle + w.length) :=
    s.transmitting_line w _
  have hguard := State.afterGuard_transmitting (w := w) (r := { s.cell ev k with cnt := c }) hk rfl rfl
  have hcnt : (s.transmitting w { s.cell ev k with cnt := c }).arbCnt = count c := rfl
  have hbyte : (s.transmitting w { s.cell ev k with cnt := c }).txByteidx.toNat = k / 8 := hj
  have hbit : (s.transmitting w { s.cell ev k with cnt := c }).txBitidx.toNat = 7 - k % 8 := hi
  have hbitval : s.txBit (k / 8) (7 - k % 8) = s.heldBit k := rfl
  simp only [State.arbWrites, State.arbStep_high, sendHigh, hline, hguard, hcnt, hbyte, hbit, hbitval,
    s.transmitting_timing, s.transmitting_txBit, s.transmitting_raise, apply_ite (s.transmitting w)]
  refine ite_congr (propext (count_inj hc (by decide))) (fun _ => rfl) fun _ => ite_congr ?_ (fun h => ?_) fun _ =>
    ite_congr (propext (count_inj hc (by decide))) (fun _ => rfl) fun _ => ?_
  · simp [count_inj hc hcell, and_assoc]
  · rw [prevCell_eq h.2.1]
    rfl
  · rw [count_sub_one (by omega)]
    rfl

/-- BIT_GUARD of cell `k` with `c` cycles left (44_arbitration.md R230). -/
theorem State.guard_writes (hpos : 1 ≤ c) : s.arbWrites w (s.guard ev k c true)
    (if c = 1 then s.afterCell ev k else s.guard ev k (c - 1) true) := by
  have hcnt : (s.transmitting w (s.guard ev k c true)).arbCnt = count c := rfl
  simp only [State.arbWrites, State.arbStep_guard, sendGuard, hcnt, apply_ite (s.transmitting w)]
  rw [if_neg (by rw [show (0 : Count) = count 0 from rfl, count_inj hc (by decide)]; omega)]
  refine ite_congr (propext (count_inj hc (by decide))) (fun _ => ?_) fun _ => ?_
  · exact s.guardEnd_cell hk
  · rw [count_sub_one hpos]
    rfl

end

/-- The first cycle after the guard of cell `k` finds the line low: check 2 (44_arbitration.md R230, R232). -/
theorem State.afterCell_collides {s : State} {w : List Bool} {ev : List Raised} {k : Nat} (hk : k < 8 * s.txLen.toNat)
    (hcell : ∀ v, 1 ≤ s.timing.cellHigh v ∧ s.timing.cellHigh v < 2 ^ 32)
    (hline : s.releasedAt (s.cycle + w.length) = false) :
    s.arbWrites w (s.afterCell ev k) { s.afterCell ev k with
      state := arbListeningCode
      sub := 0
      low := false
      events := ⟨s.cycle + w.length, .collisionGuard (k / 8) (7 - k % 8)⟩ :: ev } := by
  rw [State.afterCell]
  split
  · next hmore =>
    obtain ⟨hpos, hmax⟩ := hcell (s.heldBit (k + 1))
    have h := State.high_writes (w := w) (ev := ev) hmore hmax hmax
    rw [if_neg (Nat.ne_of_gt hpos), if_pos ⟨rfl, Nat.succ_pos k, hline⟩] at h
    exact h
  · have hlen := s.txLen.isLt
    have hj := toNat_cellByte (k := k) (by omega)
    have hbyte : (s.transmitting w (s.guard ev k 0 false)).txByteidx.toNat = k / 8 := hj
    have hbit : (s.transmitting w (s.guard ev k 0 false)).txBitidx.toNat = 7 - k % 8 := toNat_cellBit k
    rw [State.arbWrites, State.arbStep_return, if_neg (Bool.eq_false_iff.mp hline), hbyte, hbit, s.transmitting_raise]
    rfl

/-- The return cycle after the last cell finds the line high: the frame is sent (44_arbitration.md R231). -/
theorem State.afterCell_done {s : State} {w : List Bool} {ev : List Raised} {k : Nat} (hend : k + 1 = 8 * s.txLen.toNat)
    (hline : s.releasedAt (s.cycle + w.length) = true) :
    let v := s.transmitting w (s.afterCell ev k)
    arbStep v v = { s.transmitting w { s.afterCell ev k with
      state := arbWaitingCode
      sub := 0
      low := false
      events := ⟨s.cycle + w.length, .txDone⟩ :: ev } with txHeld := false, notify := false } := by
  rw [State.afterCell, if_neg (Nat.not_lt.mpr (Nat.le_of_eq hend.symm))]
  intro v
  rw [State.arbStep_return, if_pos hline, ← s.transmitting_cycle w (s.guard ev k 0 false)]
  rfl

/-! ### The cells of the held frame, one after another -/

/-- A transmission with a profile the counters can hold. -/
structure Sends (s : State) : Prop extends Transmits s where
  delta_pos : 1 ≤ s.tpDelta.toNat
  fits : 2 * s.tpDelta.toNat < 2 ^ 32

/-- The state in which Sending leaves ARB, by the drive of the held frame's cells (44_arbitration.md R229, R231, R232). -/
def State.sendOver (s : State) (o : ByteDrive) (r : TxRegs) : State :=
  match o.hit with
  | some (c, k) => s.transmitting (o.wave ++ [false]) { r with
      state := arbListeningCode
      sub := 0
      low := false
      events := ⟨collisionCycle c o.tNext, collisionEvent c (k / 8) (7 - k % 8)⟩ :: s.events }
  | none => { s.transmitting (o.wave ++ [false]) { r with
      state := arbWaitingCode
      sub := 0
      low := false
      events := ⟨o.tNext, .txDone⟩ :: s.events } with txHeld := false, notify := false }

/-- The clock cycles from `v` on end the Sending that began in `s` as the drive `o` ends, whatever ARB_CNT and the indices
are then (DESIGN CHOICE, entry 28). -/
def SendsAs (s v : State) (o : ByteDrive) : Prop := ∃ r, Reaches v (s.sendOver o r)

theorem SendsAs.of_reaches {s v v' : State} {o : ByteDrive} (h : Reaches v v') (k : SendsAs s v' o) : SendsAs s v o := by
  obtain ⟨r, hr⟩ := k
  exact ⟨r, h.trans hr⟩

theorem ReachesSilently.reaches {s : State} {w w' : List Bool} {r r' : TxRegs} {n : Nat}
    (h : ReachesSilently n (s.transmitting w r) (s.transmitting (w ++ w') r')) (hn : w'.length = n) :
    Reaches (s.transmitting w r) (s.transmitting (w ++ w') r') := by
  refine ⟨n, ?_, h.1⟩
  rw [State.transmitting_cycle, State.transmitting_cycle, List.length_append, hn, Nat.add_assoc]

section
variable {s : State} {k : Nat} (hk : k < 8 * s.txLen.toNat) (ev : List Raised)
include hk

theorem State.cell_defined (c : Nat) : { s.cell ev k with cnt := c }.defined := by
  have hlen := s.txLen.isLt
  have hj := toNat_cellByte (k := k) (by omega)
  exact .inr ⟨rfl, Nat.zero_le 1, Nat.lt_of_le_of_lt (Nat.le_of_eq hj) (by omega)⟩

theorem State.guard_defined (c : Nat) (low : Bool) : (s.guard ev k c low).defined := by
  rcases State.cell_defined hk ev c with ⟨hst, -⟩ | ⟨hst, -, hj⟩
  · cases hst
  · exact .inr ⟨hst, Nat.le_refl 1, hj⟩

theorem State.afterCell_defined : (s.afterCell ev k).defined := by
  rw [State.afterCell]
  split
  · next hmore => exact State.cell_defined hmore ev _
  · exact State.guard_defined hk ev 0 false

end

section
variable {s : State} (hs : Sends s)
include hs

theorem Sends.cellHigh_fits (v : Bool) : 1 ≤ s.timing.cellHigh v ∧ s.timing.cellHigh v < 2 ^ 32 := by
  have hpos := hs.delta_pos
  have hfits := hs.fits
  rw [cellHigh_eq]
  split <;> omega

/-- What ARB writes in a cycle of the transmission is there in the next one. -/
theorem Sends.reaches_next {w : List Bool} {r r' : TxRegs} (hr : r.defined) (hwrites : s.arbWrites w r r') :
    Reaches (s.transmitting w r) (s.transmitting (w ++ [r.low]) r') := by
  refine .of_step (hs.step_writes hr hwrites) ?_
  simp [State.transmitting_cycle, Nat.add_assoc]

variable {w : List Bool} {ev : List Raised} {k : Nat} (hk : k < 8 * s.txLen.toNat)
include hk

/-- BIT_HIGH after `j` of its cycles, when check 2 of the cell before was high. -/
theorem Sends.high_writes {j c : Nat} (hcheck2 : k = 0 ∨ s.releasedAt (s.cycle + w.length) = true) (hc : 1 ≤ c)
    (hj : j + c = s.timing.cellHigh (s.heldBit k)) :
    s.arbWrites (w ++ List.replicate j false) { s.cell ev k with cnt := c }
      (if c = 1 then
        if s.releasedAt (s.cycle + w.length + j) = true then s.guard ev k Config.guardCyc true
        else { s.cell ev k with
          cnt := 0
          events := ⟨s.cycle + w.length + j, .collisionHigh (k / 8) (7 - k % 8)⟩ :: ev }
      else { s.cell ev k with cnt := c - 1 }) := by
  obtain ⟨-, hmax⟩ := hs.cellHigh_fits (s.heldBit k)
  have h := State.high_writes (w := w ++ List.replicate j false) (ev := ev) hk (c := c) (by omega) hmax
  have hpass : ¬ (c = s.timing.cellHigh (s.heldBit k) ∧ 0 < k
      ∧ s.releasedAt (s.cycle + (w ++ List.replicate j false).length) = false) := by
    rintro ⟨hfirst, hpos, hlow⟩
    obtain rfl : j = 0 := by omega
    rw [List.replicate_zero, List.append_nil] at hlow
    rcases hcheck2 with rfl | hhigh
    · exact Nat.lt_irrefl 0 hpos
    · exact absurd (hlow.symm.trans hhigh) Bool.false_ne_true
  rw [if_neg (Nat.ne_of_gt hc), if_neg hpass] at h
  simpa only [List.length_append, List.length_replicate, ← Nat.add_assoc] using h

/-- BIT_HIGH, whose last cycle makes check 1 (40_bit_codec.md R148). -/
theorem Sends.high_reaches (hcheck2 : k = 0 ∨ s.releasedAt (s.cycle + w.length) = true) :
    Reaches (s.transmitting w (s.cell ev k)) (s.transmitting
      (w ++ List.replicate (s.timing.cellHigh (s.heldBit k)) false)
      (if s.releasedAt (s.cycle + w.length + s.timing.cellHigh (s.heldBit k) - 1) = true then
        s.guard ev k Config.guardCyc true
      else { s.cell ev k with
        cnt := 0
        events :=
          ⟨s.cycle + w.length + s.timing.cellHigh (s.heldBit k) - 1, .collisionHigh (k / 8) (7 - k % 8)⟩ :: ev })) := by
  obtain ⟨hpos, -⟩ := hs.cellHigh_fits (s.heldBit k)
  have hcounts := (hs.silently_counts (w := w) (r := s.cell ev k) (State.cell_defined hk ev _) hpos fun j c hc hj => by
    have h := hs.high_writes hk (ev := ev) hcheck2 (Nat.le_of_lt hc) hj
    rwa [if_neg (Nat.ne_of_gt hc)] at h).reaches List.length_replicate
  have hlast := hs.high_writes hk (ev := ev) hcheck2 (Nat.le_refl 1) (Nat.sub_add_cancel hpos)
  rw [if_pos rfl, ← Nat.add_sub_assoc hpos] at hlast
  have hall := hcounts.trans (hs.reaches_next (State.cell_defined hk ev 1) hlast)
  have hwave : List.replicate (s.timing.cellHigh (s.heldBit k)) false
      = List.replicate (s.timing.cellHigh (s.heldBit k) - 1) false ++ [false] := by
    rw [← List.replicate_succ', Nat.sub_add_cancel hpos]
  rw [List.append_assoc] at hall
  rw [hwave]
  exact hall

/-- The guard, and the next cell or the return cycle after it. -/
theorem Sends.guard_reaches : Reaches (s.transmitting w (s.guard ev k Config.guardCyc true))
    (s.transmitting (w ++ List.replicate Config.guardCyc true) (s.afterCell ev k)) := by
  have hwrites : ∀ v c, 1 ≤ c → c ≤ Config.guardCyc → s.arbWrites v (s.guard ev k c true)
      (if c = 1 then s.afterCell ev k else s.guard ev k (c - 1) true) := fun v c hc hle =>
    State.guard_writes hk (Nat.lt_of_le_of_lt hle (by decide)) hc
  obtain ⟨-, hev⟩ := s.afterCell_keeps ev k
  refine (hs.silently_phase (r := s.guard ev k Config.guardCyc true) (State.guard_defined hk ev _ true) hev
    (Nat.succ_pos _) (fun j c hc hj => ?_) ?_).reaches List.length_replicate
  · have hle : c ≤ Config.guardCyc := Nat.le_of_add_left_le (Nat.le_of_eq hj)
    have h := hwrites (w ++ List.replicate j true) c (Nat.le_of_lt hc) hle
    rwa [if_neg (Nat.ne_of_gt hc)] at h
  · exact hwrites _ 1 (Nat.le_refl 1) (by decide)

/-- Check 1 low: a return cycle follows (44_arbitration.md R230, R232). -/
theorem Sends.sendsAs_check1 (hcheck2 : k = 0 ∨ s.releasedAt (s.cycle + w.length) = true)
    (hcheck1 : s.releasedAt (s.cycle + w.length + s.timing.cellHigh (s.heldBit k) - 1) = false) :
    SendsAs s (s.transmitting w (s.cell s.events k)) ⟨some (.afterHigh, k),
      s.cycle + w.length + s.timing.cellHigh (s.heldBit k),
      w ++ List.replicate (s.timing.cellHigh (s.heldBit k)) false⟩ := by
  obtain ⟨-, hmax⟩ := hs.cellHigh_fits (s.heldBit k)
  have hhigh := hs.high_reaches hk (ev := s.events) hcheck2
  rw [if_neg (Bool.eq_false_iff.mp hcheck1)] at hhigh
  have hreturn := State.high_writes (w := w ++ List.replicate (s.timing.cellHigh (s.heldBit k)) false) hk (c := 0)
    (ev := ⟨s.cycle + w.length + s.timing.cellHigh (s.heldBit k) - 1, .collisionHigh (k / 8) (7 - k % 8)⟩ :: s.events)
    (by decide) hmax
  rw [if_pos rfl] at hreturn
  exact .of_reaches hhigh ⟨{ s.cell s.events k with cnt := 0 }, hs.reaches_next (State.cell_defined hk _ 0) hreturn⟩

/-- Check 1 high: the cell is driven whole. -/
theorem Sends.cell_reaches (hcheck2 : k = 0 ∨ s.releasedAt (s.cycle + w.length) = true)
    (hcheck1 : s.releasedAt (s.cycle + w.length + s.timing.cellHigh (s.heldBit k) - 1) = true) :
    Reaches (s.transmitting w (s.cell ev k))
      (s.transmitting (w ++ cellWave s.timing (s.heldBit k)) (s.afterCell ev k)) := by
  have hhigh := hs.high_reaches hk (ev := ev) hcheck2
  rw [if_pos hcheck1] at hhigh
  rw [cellWave, ← List.append_assoc]
  exact hhigh.trans (hs.guard_reaches hk)

/-- Check 2 low (44_arbitration.md R232). -/
theorem Sends.sendsAs_check2 (hcheck2 : s.releasedAt (s.cycle + w.length) = false) :
    SendsAs s (s.transmitting w (s.afterCell s.events k)) ⟨some (.afterGuard, k), s.cycle + w.length, w⟩ := by
  obtain ⟨hlow, -⟩ := s.afterCell_keeps s.events k
  have hreach := hs.reaches_next (State.afterCell_defined hk s.events)
    (State.afterCell_collides hk hs.cellHigh_fits hcheck2)
  rw [hlow] at hreach
  exact ⟨s.afterCell s.events k, hreach⟩

/-- Check 2 of the last cell high (44_arbitration.md R231). -/
theorem Sends.sendsAs_done (hlast : k + 1 = 8 * s.txLen.toNat) (hcheck2 : s.releasedAt (s.cycle + w.length) = true) :
    SendsAs s (s.transmitting w (s.afterCell s.events k)) ⟨none, s.cycle + w.length, w⟩ := by
  obtain ⟨hlow, -⟩ := s.afterCell_keeps s.events k
  have hstep := hs.step_transmitting (w := w) (State.afterCell_defined hk s.events)
  have hend := congrArg (fun t : State => { t with txHeld := false, notify := false })
    (hs.endCycle_transmitting w (s.afterCell s.events k) { s.afterCell s.events k with
      state := arbWaitingCode
      sub := 0
      low := false
      events := ⟨s.cycle + w.length, .txDone⟩ :: s.events })
  rw [State.afterCell_done hlast hcheck2] at hstep
  rw [hlow] at hend
  refine ⟨s.afterCell s.events k, .of_step (hstep.trans (congrArg _ hend)) ?_⟩
  simp [State.sendOver, State.transmitting, Nat.add_assoc]

end

/-- The cells from cell `k` on, when check 2 of the cell before was high. -/
theorem Sends.sendsAs_cells {s : State} (hs : Sends s) {n k : Nat} {w : List Bool} (hn : k + 1 + n = 8 * s.txLen.toNat)
    (hcheck2 : k = 0 ∨ s.releasedAt (s.cycle + w.length) = true) :
    SendsAs s (s.transmitting w (s.cell s.events k))
      ((driveCellsAt s.releasedAt s.timing ((bitsOf s.heldFrame).drop k) (s.cycle + w.length)).after k w) := by
  have hk : k < 8 * s.txLen.toNat := by omega
  rw [State.drop_bitsOf_heldFrame hk]
  cases hcheck1 : s.releasedAt (s.cycle + w.length + s.timing.cellHigh (s.heldBit k) - 1) with
  | false =>
    have hdrive := driveBitAt_check1 hcheck1
    rw [driveCellsAt_cons_hit (congrArg BitDrive.hit hdrive), hdrive]
    simpa [ByteDrive.after] using hs.sendsAs_check1 hk hcheck2 hcheck1
  | true =>
    have hdrive := driveBitAt_cell hcheck1
    have hend : s.cycle + w.length + s.timing.cellHigh (s.heldBit k) + Config.guardCyc
        = s.cycle + (w ++ cellWave s.timing (s.heldBit k)).length := by
      rw [List.length_append, cellWave_length, Nat.add_assoc, Nat.add_assoc]
    rw [hend] at hdrive
    refine .of_reaches (hs.cell_reaches hk hcheck2 hcheck1) ?_
    cases hnext : s.releasedAt (s.cycle + (w ++ cellWave s.timing (s.heldBit k)).length) with
    | false =>
      rw [hnext, if_pos rfl] at hdrive
      rw [driveCellsAt_cons_hit (congrArg BitDrive.hit hdrive), hdrive]
      simpa [ByteDrive.after] using hs.sendsAs_check2 hk hnext
    | true =>
      rw [hnext, if_neg (by decide)] at hdrive
      rw [driveCellsAt_cons_free (congrArg BitDrive.hit hdrive), hdrive, ByteDrive.after_after, Nat.add_comm 1]
      cases n with
      | zero =>
        have hnil : (bitsOf s.heldFrame).drop (k + 1) = [] := by
          rw [List.drop_eq_nil_iff, length_bitsOf, State.length_heldFrame]
          exact Nat.le_of_eq hn.symm
        rw [hnil]
        simpa [driveCellsAt, ByteDrive.after] using hs.sendsAs_done hk hn hnext
      | succ n =>
        have hcells := hs.sendsAs_cells (k := k + 1) (n := n) (by omega) (.inr hnext)
        rw [State.afterCell, if_pos (by omega)]
        exact hcells

/-- What both ends of Sending have in common: the cells and a released return cycle have passed. -/
theorem State.sendOver_frame (s : State) (o : ByteDrive) (r : TxRegs) :
    (s.sendOver o r).cycle = s.cycle + o.wave.length + 1
    ∧ (s.sendOver o r).drvTrace = false :: (o.wave.reverse ++ s.drvTrace)
    ∧ (s.sendOver o r).drvLow = false ∧ SameStorage s (s.sendOver o r) ∧ (s.sendOver o r).ring = s.ring
    ∧ (s.sendOver o r).inq = s.inq ∧ (s.sendOver o r).outq = s.outq := by
  obtain ⟨hit, tNext, wave⟩ := o
  have hstore := (s.passWave_onlyTimePassed (wave ++ [false])).2
  cases hit with
  | none => refine ⟨?_, ?_, rfl, hstore, ?_⟩ <;> simp [State.sendOver, State.transmitting, Nat.add_assoc]
  | some x => refine ⟨?_, ?_, rfl, hstore, ?_⟩ <;> simp [State.sendOver, State.transmitting, Nat.add_assoc]

/-- Without a collision ARB is in Waiting, the frame freed and NOTIFY cleared (44_arbitration.md R231). -/
theorem State.sendOver_free {s : State} {o : ByteDrive} (r : TxRegs) (h : o.hit = none) :
    (s.sendOver o r).arbState = arbWaitingCode ∧ (s.sendOver o r).txHeld = false ∧ (s.sendOver o r).notify = false
    ∧ (s.sendOver o r).events = ⟨o.tNext, .txDone⟩ :: s.events := by
  rw [State.sendOver, h]
  exact ⟨rfl, rfl, rfl, rfl⟩

/-- With one it is in Listening, the frame held and NOTIFY as it was (44_arbitration.md R232). -/
theorem State.sendOver_hit {s : State} {o : ByteDrive} (r : TxRegs) {c : Check} {k : Nat} (h : o.hit = some (c, k)) :
    (s.sendOver o r).arbState = arbListeningCode ∧ (s.sendOver o r).arbSub = 0 ∧ (s.sendOver o r).txHeld = s.txHeld
    ∧ (s.sendOver o r).notify = s.notify
    ∧ (s.sendOver o r).events = ⟨collisionCycle c o.tNext, collisionEvent c (k / 8) (7 - k % 8)⟩ :: s.events := by
  rw [State.sendOver, h]
  exact ⟨rfl, rfl, State.passWave_txHeld .., State.passWave_notify .., rfl⟩

/-- Settles O38: the clock cycles end the cells as their drive ends, and SEND_FRAME is that drive. -/
theorem sendingStepsMakeSendFrame : Obligations.SendingStepsMakeSendFrame := by
  intro s hu hrst hcfg hprobe hrx hst hsub hbyte hbit hlow hlen hdelta hfits hcnt
  have hs : Sends s := ⟨⟨hu, hrst, hcfg, hprobe, hrx⟩, hdelta, hfits⟩
  have hfirst : s.transmitting [] (s.cell s.events 0) = s :=
    State.transmitting_self (by rw [State.cell, hst, hsub, hbyte, hbit, hlow]; rfl) hcnt
  obtain ⟨r, n, hn, hsteps⟩ := hs.sendsAs_cells (k := 0) (n := 8 * s.txLen.toNat - 1) (w := []) (by omega) (.inl rfl)
  obtain ⟨u, hexec, hends⟩ := exec_sendFrame s s.heldFrame
  have hend := sendBytesAt_length s.releasedAt s.timing s.heldFrame 0 s.cycle
  rw [hfirst, ByteDrive.after_zero, List.drop_zero, List.length_nil, Nat.add_zero] at hn hsteps
  rw [sendFrameAt_eq] at hends
  rw [sendBytesAt_eq] at hend
  generalize driveCellsAt s.releasedAt s.timing (bitsOf s.heldFrame) s.cycle = o at hn hsteps hends hend
  obtain ⟨hcycle, htrace, hdrv, hstore, hqueues⟩ := s.sendOver_frame o r
  have hret : (s.sendOver o r).cycle = u.cycle + 1 := by rw [hcycle, hends.cycle, ← hend]
  have hcount : u.cycle + 1 - s.cycle = n := by rw [← hret, hn, Nat.add_sub_cancel_left]
  refine ⟨u, s.sendOver o r, hexec, hcount ▸ hsteps, hret, by rw [htrace, hends.drvTrace], hdrv, fun hfree => ?done,
    fun hcollision => ?collision, hstore, hqueues⟩
  case done =>
    cases hhit : o.hit with
    | none => exact hends.cycle ▸ State.sendOver_free r hhit
    | some x =>
      have hraised := hfree.symm.trans hends.events
      simp [FrameDrive.raised, hhit, cellInFrame] at hraised
  case collision =>
    cases hhit : o.hit with
    | none =>
      have hraised := hends.events
      rw [hhit] at hraised
      exact absurd hraised hcollision
    | some x =>
      have hraised := hends.events
      simp only [FrameDrive.raised, hhit, Option.map_some, cellInFrame, Nat.zero_add] at hraised
      rw [hraised]
      exact State.sendOver_hit r hhit

end Sys2Proof.Machine
end

section
/-! SUPPORT. Obligations O32, O33, O34, O39 and O40: an operation of ARB is ARB's step of the cycle or nothing, and what the
step writes in Waiting, Listening and Reading. -/

namespace Sys2Proof.Machine

/-! ### An operation of ARB -/

/-- What keeps ARB from a step (44_arbitration.md R215, R216). -/
theorem arbRuns_eq_false_iff (s : State) (lock : Bool) : s.arbRuns lock = false ↔
    s.cfgValid = false ∨ s.rxActive = true ∨ s.trig = true ∨ s.diagMode = true ∨ lock = true := by
  simp only [State.arbRuns, State.frozen, Bool.and_eq_false_iff, Bool.not_eq_false', Bool.or_eq_true, or_assoc]

theorem arbOperation_of_not_arbRuns (code : BitVec 3) (op : State → State → State) {s : State}
    (h : s.arbRuns s.hostLock = false) : arbOperation code op s = .next s := by
  simp [arbOperation, h]

/-- The operation of ARB_STATE, with an ARB_SUB the state defines and nothing to stop it. -/
theorem arbOperation_own {code : BitVec 3} {op : State → State → State} {s : State} (hr : s.arbRuns s.hostLock = true)
    (hstate : s.arbState = code) (hsub : s.arbSubDefined = true) (heffect : s.arbNoEffect = none) :
    arbOperation code op s = .next (op s s) := by
  simp [arbOperation, hr, hstate, State.arbFault, heffect, arbRun_defined op s s hsub]

/-! ### The sub-phases a state defines (10_state.md R40) -/

theorem arbSubDefined_of_zero {s : State} (h : s.arbSub = 0) : s.arbSubDefined = true := by
  have hzero : s.subZero = s := by rw [State.subZero, ← h]
  exact hzero ▸ arbSubDefined_subZero s

theorem arbSubDefined_of_one {s : State} (hstate : s.arbState.toNat ≠ 0) (h : s.arbSub = 1) : s.arbSubDefined = true :=
  eq_true_of_ne_false fun hundefined => arbSub_ne_one hstate (.inr hundefined) h

theorem arbSubDefined_of_two {s : State} (hstate : s.arbState.toNat = 2) (h : s.arbSub = 2) : s.arbSubDefined = true :=
  eq_true_of_ne_false fun hundefined => arbSub_ne_two hstate (.inr hundefined) h

/-! ### Waiting -/

theorem arbWaiting_of_ring {s0 : State} (s : State) (h : s0.ring ≠ []) : arbWaiting s0 s = s.arbGo arbReadingCode := by
  cases hring : s0.ring with
  | nil => exact absurd hring h
  | cons f q => simp only [arbWaiting, hring]

section
variable {s0 : State} (s : State) (hring : s0.ring = [])
include hring

theorem arbWaiting_of_held (h : s0.txHeld = true) : arbWaiting s0 s = s.arbGo arbListeningCode := by
  simp only [arbWaiting, hring, h, if_true]

theorem arbWaiting_of_outq {f : List Byte} {q : List (List Byte)} (h : s0.txHeld = false) (houtq : s0.outq = f :: q) :
    arbWaiting s0 s = (s.holdFrame f).arbGo arbListeningCode := by
  simp only [arbWaiting, hring, h, houtq, Bool.false_eq_true, if_false]

theorem arbWaiting_of_idle (h : s0.txHeld = false) (houtq : s0.outq = []) : arbWaiting s0 s = s := by
  simp only [arbWaiting, hring, h, houtq, Bool.false_eq_true, if_false]

end

/-- In Waiting only a frame of OUTQ that is to be taken and that TX_FRAME cannot hold stops ARB (entry 11). -/
theorem arbNoEffect_waiting {s : State} (hstate : s.arbState = arbWaitingCode)
    (h : s.ring ≠ [] ∨ s.txHeld = true ∨ (s.outq.headD []).length ≤ Config.maxFrame) : s.arbNoEffect = none := by
  have hcode : s.arbState.toNat = 0 := congrArg BitVec.toNat hstate
  simp only [State.arbNoEffect, hcode]
  refine if_neg fun hstop => ?_
  simp only [Bool.and_eq_true, List.isEmpty_iff, Bool.not_eq_true', decide_eq_true_eq] at hstop
  obtain ⟨⟨hring, hheld⟩, hlong⟩ := hstop
  rcases h with h | h | h
  · exact h hring
  · exact Bool.false_ne_true (hheld.symm.trans h)
  · exact Nat.not_lt.mpr h hlong

theorem exec_arbWaiting {s : State} (hr : s.arbRuns s.hostLock = true) (hstate : s.arbState = arbWaitingCode)
    (hsub : s.arbSub = 0) (h : s.ring ≠ [] ∨ s.txHeld = true ∨ (s.outq.headD []).length ≤ Config.maxFrame) :
    exec .arbWaiting s = .next (arbWaiting s s) :=
  arbOperation_own hr hstate (arbSubDefined_of_zero hsub) (arbNoEffect_waiting hstate h)

/-! ### Listening -/

theorem arbListening_of_zero {s0 : State} (s : State) (h : s0.arbSub = 0) : arbListening s0 s = listenCheck s0 s :=
  if_neg (by rw [h]; decide)

theorem arbListening_of_one {s0 : State} (s : State) (h : s0.arbSub = 1) : arbListening s0 s = listenBackoff s0 s :=
  if_pos h

theorem arbNoEffect_listening {s : State} (hstate : s.arbState = arbListeningCode) : s.arbNoEffect = none := by
  simp [State.arbNoEffect, hstate]

theorem exec_arbListening {s : State} (hr : s.arbRuns s.hostLock = true) (hstate : s.arbState = arbListeningCode)
    (hsub : s.arbSubDefined = true) : exec .arbListening s = .next (arbListening s s) :=
  arbOperation_own hr hstate hsub (arbNoEffect_listening hstate)

/-! ### Reading -/

theorem arbReading_of_zero {s0 : State} (s : State) (h : s0.arbSub = 0) : arbReading s0 s = readPop s0 s :=
  if_neg (by rw [h]; decide)

theorem arbReading_of_one {s0 : State} (s : State) (h : s0.arbSub = 1) : arbReading s0 s = readWait s0 s :=
  if_pos h

/-- In Reading only a POP of a RING without a capture that RD_FRAME can hold stops ARB (entry 11). -/
theorem arbNoEffect_reading {s : State} (hstate : s.arbState = arbReadingCode)
    (h : s.arbSub = 1 ∨ s.ring ≠ [] ∧ (s.ring.headD []).length ≤ Config.maxFrame) : s.arbNoEffect = none := by
  have hcode : s.arbState.toNat = 4 := congrArg BitVec.toNat hstate
  simp only [State.arbNoEffect, hcode]
  rcases h with h | ⟨hring, hfits⟩
  · exact if_pos h
  · have hcapture : ¬ s.ring.isEmpty = true := by simpa using hring
    rw [if_neg hcapture, if_neg (Nat.not_lt.mpr hfits), ite_self]

/-! ### A frame written to a buffer from index 0 -/

/-- A frame written from index 0 on is read back byte for byte, and the bytes behind it are as they were. -/
theorem Memory.read_writeFrom_zero {m : Memory} {f : List Byte} (hm : m.wf = true) (hf : f.length ≤ Config.maxFrame) :
    (∀ i, (h : i < f.length) → (m.writeFrom 0 f).read i = f[i])
    ∧ ∀ i, f.length ≤ i → (m.writeFrom 0 f).read i = m.read i := by
  have hfits : 0 + f.length ≤ Config.maxFrame := by omega
  refine ⟨fun i hi => ?_, fun i hi => Memory.read_writeFrom_other m 0 i f (.inr (by omega))⟩
  rw [← Memory.read_writeFrom hm hfits hi, Nat.zero_add]

/-! ### The statements -/

/-- Settles O32: an operation of ARB runs only where ARB runs and only in its own state. -/
theorem frozenArbWritesNothing : Obligations.FrozenArbWritesNothing := by
  intro s
  refine ⟨fun hfrozen => ?_, arbOperation_other _ _ s, arbOperation_other _ _ s, arbOperation_other _ _ s,
    arbOperation_other _ _ s, arbOperation_other _ _ s⟩
  have hstill : s.arbRuns s.hostLock = false := (arbRuns_eq_false_iff s _).mpr hfrozen
  have hnothing := fun code op => arbOperation_of_not_arbRuns code op hstill
  exact ⟨hnothing _ _, hnothing _ _, hnothing _ _, hnothing _ _, hnothing _ _⟩

/-- Settles O33: what Waiting finds, in the order in which it looks. -/
theorem waitingServesInboundFirst : Obligations.WaitingServesInboundFirst := by
  refine ⟨fun s hr hstate hsub => ⟨fun hring => ?ring, fun hring hheld => ?held, fun hring hheld houtq => ?idle⟩,
    fun s f q hr hstate hsub hwf hring hheld houtq hlen => ?outq⟩
  case ring => rw [exec_arbWaiting hr hstate hsub (.inl hring), arbWaiting_of_ring s hring]; rfl
  case held => rw [exec_arbWaiting hr hstate hsub (.inr (.inl hheld)), arbWaiting_of_held s hring hheld]; rfl
  case idle =>
    rw [exec_arbWaiting hr hstate hsub (.inr (.inr (by simp [houtq]))), arbWaiting_of_idle s hring hheld houtq]
  case outq =>
    have hexec := exec_arbWaiting hr hstate hsub (.inr (.inr (by simpa [houtq] using hlen)))
    have htail : s.outq.tail = q := congrArg List.tail houtq
    rw [arbWaiting_of_outq s hring hheld houtq] at hexec
    obtain ⟨htaken, hbehind⟩ := Memory.read_writeFrom_zero hwf hlen
    refine ⟨_, hexec, by rw [← htail]; rfl, htaken, hbehind, fun b i hb => ?_⟩
    cases b with
    | txFrame => exact absurd rfl hb
    | rxBuf | rdFrame | diagBuf => rfl

/-- Settles O34: the carrier check by the line, the backoff by NOTIFY and its count. -/
theorem listeningChecksAndBacksOff : Obligations.ListeningChecksAndBacksOff := by
  intro s hr hstate
  have check (hsub : s.arbSub = 0) : exec .arbListening s = .next (listenCheck s s) := by
    rw [exec_arbListening hr hstate (arbSubDefined_of_zero hsub), arbListening_of_zero s hsub]
  have backoff (hsub : s.arbSub = 1) : exec .arbListening s = .next (listenBackoff s s) := by
    rw [exec_arbListening hr hstate (arbSubDefined_of_one (by simp [hstate]) hsub), arbListening_of_one s hsub]
  refine ⟨fun hsub hline => ?busy, fun hsub hline => ?free, fun hsub hnotify => ?abort, fun hsub hnotify hcnt => ?last,
    fun hsub hnotify hcnt => ?counts⟩
  case busy => rw [check hsub, listenCheck, if_neg (by simp [hline])]; rfl
  case free => rw [check hsub, listenCheck, if_pos hline]; rfl
  case abort => rw [backoff hsub, listenBackoff, if_pos hnotify]; rfl
  case last => rw [backoff hsub, listenBackoff, if_neg (by simp [hnotify]), if_pos hcnt]; rfl
  case counts => rw [backoff hsub, listenBackoff, if_neg (by simp [hnotify]), if_neg hcnt]

/-- Settles O39: the POP of a capture that fits RD_FRAME. -/
theorem readingPopsTheOldestCapture : Obligations.ReadingPopsTheOldestCapture := by
  intro s f q hr hstate hsub hwf hring hlen
  have hpop : readPop s s = { s with
      ring := q
      rdFrame := s.rdFrame.writeFrom 0 f
      rdLen := BitVec.ofNat 8 f.length
      arbCnt := count s.params.inqWaitCyc
      arbSub := 1 } := by
    simp only [readPop, hring, List.tail_cons]
  have hexec : exec .arbReading s = .next (arbReading s s) :=
    arbOperation_own hr hstate (arbSubDefined_of_zero hsub)
      (arbNoEffect_reading hstate (.inr ⟨by simp [hring], by simpa [hring] using hlen⟩))
  rw [arbReading_of_zero s hsub, hpop] at hexec
  obtain ⟨hpopped, hbehind⟩ := Memory.read_writeFrom_zero hwf hlen
  refine ⟨_, hexec, rfl, hpopped, hbehind, fun b i hb => ?_⟩
  cases b with
  | rdFrame => exact absurd rfl hb
  | rxBuf | txFrame | diagBuf => rfl

/-- Settles O40: WAIT by the room in INQ and the wait left. -/
theorem readingWaitsForRoom : Obligations.ReadingWaitsForRoom := by
  intro s hr hstate hsub
  have hexec : exec .arbReading s = .next (readWait s s) := by
    rw [← arbReading_of_one s hsub]
    exact arbOperation_own hr hstate (arbSubDefined_of_one (by simp [hstate]) hsub) (arbNoEffect_reading hstate (.inl hsub))
  have full (hfull : s.params.inqDepth ≤ s.inq.length) : ¬ s.inqRoom = true := by
    simpa [State.inqRoom] using hfull
  refine ⟨fun hroom => ?push, fun hfull hcnt => ?drop, fun hfull hcnt => ?counts⟩
  case push =>
    have hroom : s.inqRoom = true := decide_eq_true hroom
    rw [hexec, readWait, if_pos hroom]
    rfl
  case drop => rw [hexec, readWait, if_neg (full hfull), if_pos hcnt]; rfl
  case counts => rw [hexec, readWait, if_neg (full hfull), if_neg hcnt]

end Sys2Proof.Machine
end

section
/-! SUPPORT. Obligations O35 and O37: one cycle of Starting and one of Sending. What ARB writes by the sub-phase, its count and
the line. -/

namespace Sys2Proof.Machine

/-! ### Starting -/

theorem arbStarting_of_zero {s0 : State} (s : State) (h : s0.arbSub = 0) : arbStarting s0 s = startSyncLow s0 s := by
  rw [arbStarting, if_neg (by rw [h]; decide), if_neg (by rw [h]; decide)]

theorem arbStarting_of_one {s0 : State} (s : State) (h : s0.arbSub = 1) : arbStarting s0 s = startBsHigh s0 s :=
  if_pos h

theorem arbStarting_of_two {s0 : State} (s : State) (h : s0.arbSub = 2) : arbStarting s0 s = startBsLow s0 s := by
  rw [arbStarting, if_neg (by rw [h]; decide), if_pos h]

theorem arbNoEffect_starting {s : State} (hstate : s.arbState = arbStartingCode) : s.arbNoEffect = none := by
  simp [State.arbNoEffect, hstate]

theorem exec_arbStarting {s : State} (hr : s.arbRuns s.hostLock = true) (hstate : s.arbState = arbStartingCode)
    (hsub : s.arbSubDefined = true) : exec .arbStarting s = .next (arbStarting s s) :=
  arbOperation_own hr hstate hsub (arbNoEffect_starting hstate)

/-- EV_TX_START, raised where ARB_CNT holds the whole SYNC low (60_exceptions.md R316 row 10). -/
theorem State.raiseTxStart_eq (s : State) : State.raiseTxStart s s = { s with
    events := if s.arbCnt = count s.syncLowCyc then ⟨s.cycle, .txStart s.cycle⟩ :: s.events else s.events } := by
  unfold State.raiseTxStart
  split <;> rfl

/-- A count above 1 is in neither its last cycle nor at 0. -/
theorem ne_zero_and_ne_one_of_one_lt {n : Count} (h : 1 < n.toNat) : n ≠ 0 ∧ n ≠ 1 := by
  constructor <;> rintro rfl <;> exact absurd h (by decide)

theorem not_one_lt_of_eq_one {n : Count} (h : n = 1) : ¬ 1 < n.toNat :=
  fun hlt => (ne_zero_and_ne_one_of_one_lt hlt).2 h

/-- Settles O35: each phase by whether its count has run down to 1. -/
theorem startingStepsThroughItsPhases : Obligations.StartingStepsThroughItsPhases := by
  intro s hr hstate ev
  have hnonzero : s.arbState.toNat ≠ 0 := by simp [hstate]
  have syncLow (hsub : s.arbSub = 0) : exec .arbStarting s = .next (startSyncLow s s) := by
    rw [exec_arbStarting hr hstate (arbSubDefined_of_zero hsub), arbStarting_of_zero s hsub]
  have bsHigh (hsub : s.arbSub = 1) : exec .arbStarting s = .next (startBsHigh s s) := by
    rw [exec_arbStarting hr hstate (arbSubDefined_of_one hnonzero hsub), arbStarting_of_one s hsub]
  have bsLow (hsub : s.arbSub = 2) : exec .arbStarting s = .next (startBsLow s s) := by
    rw [exec_arbStarting hr hstate (arbSubDefined_of_two (congrArg BitVec.toNat hstate) hsub), arbStarting_of_two s hsub]
  refine ⟨fun hsub hcnt => ?syncCounts, fun hsub hcnt => ?syncLast, fun hsub hcnt => ?highLast,
    fun hsub hcnt => ?bitSyncCounts, fun hsub hcnt => ?lowLast⟩
  case syncCounts =>
    rw [syncLow hsub, startSyncLow, State.raiseTxStart_eq]
    exact congrArg _ (if_pos hcnt)
  case syncLast =>
    rw [syncLow hsub, startSyncLow, State.raiseTxStart_eq]
    exact congrArg _ (if_neg (not_one_lt_of_eq_one hcnt))
  case highLast =>
    rw [bsHigh hsub, startBsHigh, if_neg (not_one_lt_of_eq_one hcnt)]
    rfl
  case bitSyncCounts =>
    rcases hsub with hsub | hsub
    · rw [bsHigh hsub, startBsHigh, if_pos hcnt]
    · rw [bsLow hsub, startBsLow, if_pos hcnt]
  case lowLast =>
    rw [bsLow hsub, startBsLow, if_neg (not_one_lt_of_eq_one hcnt)]
    rfl

/-! ### BIT_HIGH -/

theorem arbSending_of_zero {s0 : State} (s : State) (h : s0.arbSub = 0) : arbSending s0 s = sendHigh s0 s :=
  if_neg (by rw [h]; decide)

theorem arbSending_of_one {s0 : State} (s : State) (h : s0.arbSub = 1) : arbSending s0 s = sendGuard s0 s :=
  if_pos h

theorem arbNoEffect_sending {s : State} (hstate : s.arbState = arbSendingCode) (hbyte : s.txByteidx ≠ 255) :
    s.arbNoEffect = none := by
  have hcode : s.arbState.toNat = 3 := congrArg BitVec.toNat hstate
  simp only [State.arbNoEffect, hcode]
  exact if_neg (mt (maxFrame_le_toNat_iff _).mp hbyte)

theorem exec_arbSending {s : State} (hr : s.arbRuns s.hostLock = true) (hstate : s.arbState = arbSendingCode)
    (hbyte : s.txByteidx ≠ 255) (hsub : s.arbSubDefined = true) : exec .arbSending s = .next (arbSending s s) :=
  arbOperation_own hr hstate hsub (arbNoEffect_sending hstate hbyte)

/-- The high phase of the present cell (30_encoding.md R104). -/
def State.highCycles (s : State) : Nat := s.timing.cellHigh (s.txBit s.txByteidx.toNat s.txBitidx.toNat)

/-- In the first high cycle of a cell that is not the frame's first, check 2 of the cell before finds the line low
(44_arbitration.md R230). -/
def State.guardFails (s : State) : Prop :=
  s.arbCnt = count s.highCycles ∧ ¬ (s.txByteidx = 0 ∧ s.txBitidx = 7) ∧ s.line = false

theorem State.guardFails_iff (s : State) :
    (s.arbCnt = count s.highCycles && s.afterGuard && !s.line) = true ↔ s.guardFails := by
  have hlater : s.afterGuard = true ↔ ¬ (s.txByteidx = 0 ∧ s.txBitidx = 7) := by
    rw [State.afterGuard, Bool.not_eq_true', ← Bool.not_eq_true, Bool.and_eq_true, beq_iff_eq, beq_iff_eq]
  simp only [State.guardFails, Bool.and_eq_true, decide_eq_true_eq, hlater, Bool.not_eq_true', and_assoc]

section
variable {s0 : State} (s : State)

theorem sendHigh_of_return (h : s0.arbCnt = 0) : sendHigh s0 s = s.toListening := if_pos h

theorem sendHigh_of_guardFails (hcnt : s0.arbCnt ≠ 0) (h : s0.guardFails) : sendHigh s0 s =
    (s.raise (.collisionGuard (prevCell s0.txByteidx.toNat s0.txBitidx.toNat).1
      (prevCell s0.txByteidx.toNat s0.txBitidx.toNat).2)).toListening :=
  (if_neg hcnt).trans (if_pos (s0.guardFails_iff.mpr h))

variable (hguard : ¬ s0.guardFails)
include hguard

theorem sendHigh_of_count (h : 1 < s0.arbCnt.toNat) : sendHigh s0 s = { s with arbCnt := s0.arbCnt - 1 } := by
  obtain ⟨hzero, hone⟩ := ne_zero_and_ne_one_of_one_lt h
  exact (if_neg hzero).trans ((if_neg (mt s0.guardFails_iff.mp hguard)).trans (if_neg hone))

theorem sendHigh_of_last (h : s0.arbCnt = 1) : sendHigh s0 s =
    if s0.line then { s with arbSub := 1, arbCnt := count Config.guardCyc, drvLow := true }
    else { s.raise (.collisionHigh s0.txByteidx.toNat s0.txBitidx.toNat) with arbCnt := 0 } := by
  have hzero : s0.arbCnt ≠ 0 := by rw [h]; decide
  exact (if_neg hzero).trans ((if_neg (mt s0.guardFails_iff.mp hguard)).trans (if_pos h))

end

/-! ### BIT_GUARD -/

section
variable {s0 : State} (s : State)

theorem sendGuard_of_return (h : s0.arbCnt = 0) : sendGuard s0 s =
    if s0.line then s.sendDone
    else (s.raise (.collisionGuard s0.txByteidx.toNat s0.txBitidx.toNat)).toListening := if_pos h

theorem sendGuard_of_count (h : 1 < s0.arbCnt.toNat) : sendGuard s0 s = { s with arbCnt := s0.arbCnt - 1 } := by
  obtain ⟨hzero, hone⟩ := ne_zero_and_ne_one_of_one_lt h
  exact (if_neg hzero).trans (if_neg hone)

theorem sendGuard_of_last (h : s0.arbCnt = 1) : sendGuard s0 s = guardEnd s0 s := by
  have hzero : s0.arbCnt ≠ 0 := by rw [h]; decide
  exact (if_neg hzero).trans (if_pos h)

theorem toNat_bitidx_eq_zero_iff {i : BitVec 3} : i.toNat = 0 ↔ i = 0 := BitVec.toNat_inj (y := 0)

theorem State.lastCell_iff (s : State) :
    s.lastCell = true ↔ s.txBitidx.toNat = 0 ∧ s.txLen.toNat ≤ s.txByteidx.toNat + 1 := by
  rw [State.lastCell, Bool.and_eq_true, beq_iff_eq, decide_eq_true_eq, toNat_bitidx_eq_zero_iff]

theorem guardEnd_of_bit (h : s0.txBitidx.toNat ≠ 0) :
    guardEnd s0 s = State.enterCell s0 s s0.txByteidx (s0.txBitidx - 1) := by
  rw [guardEnd, if_neg (mt (fun hlast => (s0.lastCell_iff.mp hlast).1) h), if_neg (mt toNat_bitidx_eq_zero_iff.mpr h)]

theorem guardEnd_of_byte (h : s0.txBitidx.toNat = 0) (hlen : s0.txByteidx.toNat + 1 < s0.txLen.toNat) :
    guardEnd s0 s = State.enterCell s0 s (s0.txByteidx + 1) 7 := by
  rw [guardEnd, if_neg (mt (fun hlast => (s0.lastCell_iff.mp hlast).2) (Nat.not_le.mpr hlen)),
    if_pos (toNat_bitidx_eq_zero_iff.mp h)]

theorem guardEnd_of_last (h : s0.txBitidx.toNat = 0) (hlen : s0.txLen.toNat ≤ s0.txByteidx.toNat + 1) :
    guardEnd s0 s = { s with arbCnt := 0, drvLow := false } :=
  if_pos (s0.lastCell_iff.mpr ⟨h, hlen⟩)

end

/-- Settles O37: the high phase by its two checks and its count, the guard by its count and the cell that follows. -/
theorem sendingStepsThroughACell : Obligations.SendingStepsThroughACell := by
  intro s hr hstate hbyte j i high H first
  have bitHigh (hsub : s.arbSub = 0) : exec .arbSending s = .next (sendHigh s s) := by
    rw [exec_arbSending hr hstate hbyte (arbSubDefined_of_zero hsub), arbSending_of_zero s hsub]
  have bitGuard (hsub : s.arbSub = 1) : exec .arbSending s = .next (sendGuard s s) := by
    rw [exec_arbSending hr hstate hbyte (arbSubDefined_of_one (by simp [hstate]) hsub), arbSending_of_one s hsub]
  have guardEnds (hsub : s.arbSub = 1) (hcnt : s.arbCnt = 1) : exec .arbSending s = .next (guardEnd s s) := by
    rw [bitGuard hsub, sendGuard_of_last s hcnt]
  have high_passes (h : s.line = true ∨ first ∨ s.arbCnt ≠ H) : ¬ s.guardFails := by
    rintro ⟨hwhole, hlater, hlow⟩
    rcases h with hline | hfirst | hcnt
    · exact Bool.false_ne_true (hlow.symm.trans hline)
    · exact hlater hfirst
    · exact hcnt hwhole
  refine ⟨fun hsub hcnt hpass => ?highCounts, fun hsub hcnt hline => ?highEnds, fun hsub hcnt hline hpass => ?check1,
    fun hsub hcnt hwhole hlater hline => ?check2, fun hsub hcnt => ?highReturn, fun hsub hcnt => ?guardCounts,
    fun hsub hcnt hi => ?nextBit, fun hsub hcnt hi hlen => ?nextByte, fun hsub hcnt hi hlen => ?lastCell,
    fun hsub hcnt hline => ?sent, fun hsub hcnt hline => ?lastCheck2⟩
  case highCounts => rw [bitHigh hsub, sendHigh_of_count s (high_passes hpass) hcnt]
  case highEnds =>
    rw [bitHigh hsub, sendHigh_of_last s (high_passes (.inl hline)) hcnt, if_pos hline]
    rfl
  case check1 =>
    rw [bitHigh hsub, sendHigh_of_last s (high_passes (.inr hpass)) hcnt, if_neg (Bool.eq_false_iff.mp hline)]
    rfl
  case check2 =>
    rw [bitHigh hsub, sendHigh_of_guardFails s hcnt ⟨hwhole, hlater, hline⟩, prevCell]
    split <;> rfl
  case highReturn =>
    rw [bitHigh hsub, sendHigh_of_return s hcnt]
    rfl
  case guardCounts => rw [bitGuard hsub, sendGuard_of_count s hcnt]
  case nextBit =>
    have hbit : (s.txBitidx - 1).toNat = i - 1 := by
      have hi : s.txBitidx.toNat ≠ 0 := hi
      show (s.txBitidx - 1).toNat = s.txBitidx.toNat - 1
      bv_omega
    rw [guardEnds hsub hcnt, guardEnd_of_bit s hi, State.enterCell, hbit]
    rfl
  case nextByte =>
    have hnext : (s.txByteidx + 1).toNat = j + 1 := by
      show (s.txByteidx + 1).toNat = s.txByteidx.toNat + 1
      bv_omega
    rw [guardEnds hsub hcnt, guardEnd_of_byte s hi hlen, State.enterCell, hnext]
    rfl
  case lastCell => rw [guardEnds hsub hcnt, guardEnd_of_last s hi hlen]
  case sent =>
    rw [bitGuard hsub, sendGuard_of_return s hcnt, if_pos hline]
    rfl
  case lastCheck2 =>
    rw [bitGuard hsub, sendGuard_of_return s hcnt, if_neg (Bool.eq_false_iff.mp hline)]
    rfl

end Sys2Proof.Machine
end

section
/-! SUPPORT. Obligation O41: the transitions of ARB_STATE. Each of ARB's operations leaves ARB_STATE or takes a row of the table
of R236; an undefined ARB_SUB releases the line besides, which no row of a sub-phase 0 forbids; and in a clock cycle no
other agent writes what a row speaks of. -/

namespace Sys2Proof.Machine

/-! ### The table (44_arbitration.md R236) -/

/-- A transition of ARB_STATE from `s`, the start of the cycle, to `t`. -/
inductive ArbRow (s t : State) : Prop
  | inbound (hs : s.arbState = arbWaitingCode) (ht : t.arbState = arbReadingCode) (hring : s.ring ≠ [])
  | outbound (hs : s.arbState = arbWaitingCode) (ht : t.arbState = arbListeningCode) (hring : s.ring = [])
      (hheld : t.txHeld = true)
  | gaveUp (hs : s.arbState = arbListeningCode) (ht : t.arbState = arbWaitingCode) (hheld : t.txHeld = s.txHeld)
  | backedOff (hs : s.arbState = arbListeningCode) (ht : t.arbState = arbStartingCode) (hsub : s.arbSub = 1)
      (hnotify : s.notify = false) (hcnt : s.arbCnt = 1) (hlow : t.drvLow = true)
  | started (hs : s.arbState = arbStartingCode) (ht : t.arbState = arbSendingCode) (hbyte : t.txByteidx = 0)
      (hbit : t.txBitidx = 7)
  | sent (hs : s.arbState = arbSendingCode) (ht : t.arbState = arbWaitingCode) (hheld : t.txHeld = false)
      (hnotify : t.notify = false)
  | collided (hs : s.arbState = arbSendingCode) (ht : t.arbState = arbListeningCode) (hheld : t.txHeld = s.txHeld)
      (hlow : t.drvLow = false)
  | delivered (hs : s.arbState = arbReadingCode) (ht : t.arbState = arbWaitingCode) (hsub : s.arbSub = 1)

/-- ARB_STATE keeps its value or takes a row of the table. -/
def ArbMoves (s t : State) : Prop := t.arbState = s.arbState ∨ ArbRow s t

/-- The only row that asks for the line low begins in a sub-phase that its state defines. -/
theorem ArbMoves.released {s t : State} (h : ArbMoves s t) (hsub : s.arbSubDefined = false) :
    ArbMoves s { t with drvLow := false } := by
  refine h.imp id fun hrow => ?_
  cases hrow with
  | inbound hs ht hring => exact .inbound hs ht hring
  | outbound hs ht hring hheld => exact .outbound hs ht hring hheld
  | gaveUp hs ht hheld => exact .gaveUp hs ht hheld
  | backedOff hs _ hone => exact absurd hone (arbSub_ne_one (by simp [hs]) (.inr hsub))
  | started hs ht hbyte hbit => exact .started hs ht hbyte hbit
  | sent hs ht hheld hnotify => exact .sent hs ht hheld hnotify
  | collided hs ht hheld _ => exact .collided hs ht hheld rfl
  | delivered hs ht hone => exact .delivered hs ht hone

/-! ### ARB's operations -/

section
variable {s0 s : State} (hkeep : s.arbState = s0.arbState) (hheld : s.txHeld = s0.txHeld)

include hkeep hheld in
theorem arbWaiting_moves (hstate : s0.arbState = arbWaitingCode) : ArbMoves s0 (arbWaiting s0 s) := by
  cases hring : s0.ring with
  | cons f q =>
    rw [arbWaiting_of_ring s (by simp [hring])]
    exact .inr (.inbound hstate rfl (by simp [hring]))
  | nil =>
    cases hfree : s0.txHeld with
    | true =>
      rw [arbWaiting_of_held s hring hfree]
      exact .inr (.outbound hstate rfl hring (hheld.trans hfree))
    | false =>
      cases houtq : s0.outq with
      | cons f q =>
        rw [arbWaiting_of_outq s hring hfree houtq]
        exact .inr (.outbound hstate rfl hring rfl)
      | nil =>
        rw [arbWaiting_of_idle s hring hfree houtq]
        exact .inl hkeep

include hkeep hheld in
theorem arbListening_moves (hstate : s0.arbState = arbListeningCode) : ArbMoves s0 (arbListening s0 s) := by
  unfold arbListening
  split
  next hsub =>
    unfold listenBackoff
    split
    next => exact .inr (.gaveUp hstate rfl hheld)
    next hquiet =>
      split
      next hcnt => exact .inr (.backedOff hstate rfl hsub (Bool.eq_false_iff.mpr hquiet) hcnt rfl)
      next => exact .inl hkeep
  next =>
    unfold listenCheck
    split
    next => exact .inl hkeep
    next => exact .inr (.gaveUp hstate rfl hheld)

include hkeep in
theorem arbStarting_moves (hstate : s0.arbState = arbStartingCode) : ArbMoves s0 (arbStarting s0 s) := by
  have hraise : (State.raiseTxStart s0 s).arbState = s.arbState := by
    unfold State.raiseTxStart
    split <;> rfl
  unfold arbStarting
  split
  next =>
    unfold startBsHigh
    split <;> exact .inl hkeep
  next =>
    split
    next =>
      unfold startBsLow
      split
      · exact .inl hkeep
      · exact .inr (.started hstate rfl rfl rfl)
    next =>
      unfold startSyncLow
      dsimp only
      split <;> exact .inl (hraise.trans hkeep)

include hkeep hheld in
theorem arbSending_moves (hstate : s0.arbState = arbSendingCode) : ArbMoves s0 (arbSending s0 s) := by
  unfold arbSending
  split
  next =>
    unfold sendGuard
    split
    next =>
      split
      · exact .inr (.sent hstate rfl rfl rfl)
      · exact .inr (.collided hstate rfl hheld rfl)
    next =>
      split
      next =>
        unfold guardEnd
        split
        · exact .inl hkeep
        · split <;> exact .inl hkeep
      next => exact .inl hkeep
  next =>
    unfold sendHigh
    dsimp only
    split
    next => exact .inr (.collided hstate rfl hheld rfl)
    next =>
      split
      next => exact .inr (.collided hstate rfl hheld rfl)
      next =>
        split
        · split <;> exact .inl hkeep
        · exact .inl hkeep

include hkeep in
theorem arbReading_moves (hstate : s0.arbState = arbReadingCode) : ArbMoves s0 (arbReading s0 s) := by
  unfold arbReading
  split
  next hsub =>
    unfold readWait
    split
    next => exact .inr (.delivered hstate rfl hsub)
    next =>
      split
      · exact .inr (.delivered hstate rfl hsub)
      · exact .inl hkeep
  next =>
    unfold readPop
    split <;> exact .inl hkeep

/-! ### A step of ARB -/

include hkeep hheld in
theorem arbRun_moves {op : State → State → State}
    (h : ∀ {s}, s.arbState = s0.arbState → s.txHeld = s0.txHeld → ArbMoves s0 (op s0 s)) : ArbMoves s0 (arbRun op s0 s) := by
  unfold arbRun
  split
  next => exact h hkeep hheld
  next hsub =>
    refine ArbMoves.released ?_ (Bool.eq_false_iff.mpr hsub)
    split
    · exact h hkeep hheld
    · exact .inl hkeep

include hkeep hheld in
theorem arbStep_moves : ArbMoves s0 (arbStep s0 s) := by
  have code {c : BitVec 3} (h : s0.arbState.toNat = c.toNat) : s0.arbState = c := BitVec.eq_of_toNat_eq h
  unfold arbStep
  split
  next h => exact arbRun_moves hkeep hheld fun hk hh => arbWaiting_moves hk hh (code h)
  next h => exact arbRun_moves hkeep hheld fun hk hh => arbListening_moves hk hh (code h)
  next h => exact arbRun_moves hkeep hheld fun hk _ => arbStarting_moves hk (code h)
  next h => exact arbRun_moves hkeep hheld fun hk hh => arbSending_moves hk hh (code h)
  next h => exact arbRun_moves hkeep hheld fun hk _ => arbReading_moves hk (code h)
  next => exact .inl hkeep

end

/-! ### The clock cycle -/

theorem trig_eq_false_of_arbRuns {s : State} {lock : Bool} (h : s.arbRuns lock = true) : s.trig = false := by
  simp only [State.arbRuns, State.frozen, Bool.and_eq_true, Bool.not_eq_true', Bool.or_eq_false_iff] at h
  obtain ⟨-, ⟨⟨-, htrig⟩, -⟩, -⟩ := h
  exact htrig

/-- Where ARB runs it is the only agent besides the waiting calls (44_arbitration.md R216). -/
theorem clock_of_arbRuns {s : State} (h : s.arbRuns s.hostLock = true) (s1 : State) (hlock : s1.hostLock = s.hostLock) :
    clock s s1 = endCycle s (arbStep s (hostCycle s s1)) := by
  obtain ⟨hrx, hdiag⟩ := agents_idle_of_arbRuns h
  have htrig := trig_eq_false_of_arbRuns h
  have hhost : (hostCycle s s1).hostLock = s.hostLock := by rw [hostCycle_only s s1, hlock]
  simp only [clock, rxCycle, hrx, htrig, arbCycle, hhost, h, diagCycle, hdiag, if_true, Bool.false_eq_true, if_false]

/-- Where ARB does not run nobody writes ARB_STATE. -/
theorem clock_arbState_of_not_arbRuns {s : State} (h : s.arbRuns s.hostLock = false) (s1 : State)
    (hlock : s1.hostLock = s.hostLock) : (clock s s1).arbState = s1.arbState := by
  have hrx : (rxCycle s (hostCycle s s1)).hostLock = s.hostLock := by rw [rxCycle_only, hostCycle_only, hlock]
  rw [clock, State.endCycle_arbState, arbCycle_still s _ (hrx ▸ h), diagCycle_only, rxCycle_only, hostCycle_only]

/-- Settles O41: a clock cycle in which ARB runs moves as ARB does, and one in which it does not leaves ARB_STATE. -/
theorem arbMovesOnlyAlongTheTable : Obligations.ArbMovesOnlyAlongTheTable := by
  intro s t hrst hlock hcalls hstep hmoved
  have hclock : t = clock s s := by
    rw [step_quiet s hrst hcalls, clockOut] at hstep
    split at hstep <;> cases hstep
    rfl
  subst hclock
  cases hr : s.arbRuns s.hostLock with
  | false => exact absurd (clock_arbState_of_not_arbRuns hr s rfl) hmoved
  | true =>
    have hkeep : (hostCycle s s).arbState = s.arbState := by rw [hostCycle_only]
    have hheld : (hostCycle s s).txHeld = s.txHeld := by rw [hostCycle_only]
    rw [clock_of_arbRuns hr s rfl] at hmoved ⊢
    refine ⟨hlock ▸ hr, ?_⟩
    cases (arbStep_moves hkeep hheld).resolve_left hmoved with
    | inbound hs ht hring => exact .inl ⟨hs, ht, hring⟩
    | outbound hs ht hring hheld => exact .inr (.inl ⟨hs, ht, hring, hheld⟩)
    | gaveUp hs ht hheld => exact .inr (.inr (.inl ⟨hs, ht, hheld⟩))
    | backedOff hs ht hsub hnotify hcnt hlow => exact .inr (.inr (.inr (.inl ⟨hs, ht, hsub, hnotify, hcnt, hlow⟩)))
    | started hs ht hbyte hbit => exact .inr (.inr (.inr (.inr (.inl ⟨hs, ht, hbyte, hbit⟩))))
    | sent hs ht hheld hnotify => exact .inr (.inr (.inr (.inr (.inr (.inl ⟨hs, ht, hheld, hnotify⟩)))))
    | collided hs ht hheld hlow => exact .inr (.inr (.inr (.inr (.inr (.inr (.inl ⟨hs, ht, hheld, hlow⟩))))))
    | delivered hs ht hsub => exact .inr (.inr (.inr (.inr (.inr (.inr (.inr ⟨hs, ht, hsub⟩))))))

end Sys2Proof.Machine
end

section
/-! SUPPORT. Obligation O43: from the submission to the line. On a free line nothing freezes ARB, so that the cycle of the SUBMIT,
the one that takes the frame and the carrier check follow one another, and the backoff counts down without a break. -/

namespace Sys2Proof.Machine

/-! ### A quiet device -/

/-- Besides: the line is free in every coming cycle, and this block does not pull it low (entry 4). -/
structure Quiet (s : State) : Prop extends Transmits s where
  free : s.inputs = []
  released : s.drvLow = false

/-- ARB waits with no capture to read and no frame held: only OUTQ can give it something to do (44_arbitration.md R218). -/
structure Unoccupied (s : State) : Prop where
  waiting : s.arbState = arbWaitingCode
  sub : s.arbSub = 0
  ring : s.ring = []
  free : s.txHeld = false

theorem arbStep_of_waiting {s0 : State} (hstate : s0.arbState = arbWaitingCode) (hsub : s0.arbSub = 0) (s : State) :
    arbStep s0 s = arbWaiting s0 s := by
  have hcode : s0.arbState.toNat = 0 := congrArg BitVec.toNat hstate
  simp only [arbStep, hcode, arbRun_defined arbWaiting s0 s (arbSubDefined_of_zero hsub)]

theorem arbStep_of_listening {s0 : State} (hstate : s0.arbState = arbListeningCode) (hsub : s0.arbSubDefined = true)
    (s : State) : arbStep s0 s = arbListening s0 s := by
  have hcode : s0.arbState.toNat = 1 := congrArg BitVec.toNat hstate
  simp only [arbStep, hcode, arbRun_defined arbListening s0 s hsub]

theorem Unoccupied.arbStep_of_outq {s0 : State} (hw : Unoccupied s0) {f : List Byte} {q : List (List Byte)}
    (houtq : s0.outq = f :: q) (s : State) : arbStep s0 s = (s.holdFrame f).arbGo arbListeningCode := by
  rw [arbStep_of_waiting hw.waiting hw.sub, arbWaiting_of_outq s hw.ring hw.free houtq]

theorem Unoccupied.arbStep_of_idle {s0 : State} (hw : Unoccupied s0) (houtq : s0.outq = []) (s : State) :
    arbStep s0 s = s := by
  rw [arbStep_of_waiting hw.waiting hw.sub, arbWaiting_of_idle s hw.ring hw.free houtq]

theorem arbFault_of_arbNoEffect {s : State} (h : s.arbNoEffect = none) : s.arbFault = none := by
  rw [State.arbFault, h, ite_self]

namespace Quiet
variable {s : State} (hs : Quiet s)
include hs

theorem line : s.line = true := by
  simp [State.line, State.inputNow, hs.free, hs.released, State.idleIn, LineEnv.level]

/-- On a line that stays high no reception begins, so that ARB is not frozen (44_arbitration.md R216). -/
theorem arbRuns : s.arbRuns false = true := by
  have htrig : s.trig = false := by simp [State.trig, State.fall, hs.line]
  simp [State.arbRuns, State.frozen, hs.configured, hs.noReception, hs.noProbe, htrig]

/-- A step of a quiet device is ARB's alone. -/
theorem step_eq (h : s.arbNoEffect = none) : step s = .next (endCycle s (arbStep s s)) :=
  step_arb s hs.undisturbed hs.noReception hs.arbRuns (arbFault_of_arbNoEffect h)

/-- The next cycle of a quiet device is quiet if what was written in this one leaves it so. -/
theorem after_cycle {t : State} (ht : Quiet t) : Quiet (endCycle s t) := by
  obtain ⟨-, hcalls, hsub, hret, -⟩ := ht.undisturbed
  have hfree : s.inputs.tail = [] := congrArg List.tail hs.free
  have hrst : ∀ c ∈ s.inputs.tail, c.rst = false := by simp [hfree]
  exact ⟨⟨⟨inputNow_rst_of_inputs hrst, hcalls, hsub, hret, rfl⟩, hrst, ht.configured, ht.noProbe, ht.noReception⟩, hfree,
    ht.released⟩

/-- The clock of a quiet device. -/
theorem endCycle_of_quiet (t : State) : endCycle s t = { t with
    linePrev := true
    cycle := s.cycle + 1
    inputs := []
    drvTrace := false :: s.drvTrace
    hostLock := false } := by
  rw [endCycle_eq, hs.line, hs.free, hs.released]
  rfl

/-! ### The cycles before the backoff -/

/-- Waiting takes a frame from OUTQ (44_arbitration.md R218, R220). -/
theorem step_takes (hw : Unoccupied s) {f : List Byte} {q : List (List Byte)} (houtq : s.outq = f :: q)
    (hlen : f.length ≤ Config.maxFrame) : step s = .next (endCycle s ((s.holdFrame f).arbGo arbListeningCode)) := by
  have heffect : s.arbNoEffect = none := arbNoEffect_waiting hw.waiting (.inr (.inr (by simpa [houtq] using hlen)))
  rw [hs.step_eq heffect, hw.arbStep_of_outq houtq]

/-- The carrier check finds the line free and starts the backoff (44_arbitration.md R223). -/
theorem step_checks (hstate : s.arbState = arbListeningCode) (hsub : s.arbSub = 0) :
    step s = .next (endCycle s { s with
      notify := false, arbCnt := count (backoff s.modeAddr s.timing.delta), arbSub := 1 }) := by
  rw [hs.step_eq (arbNoEffect_listening hstate), arbStep_of_listening hstate (arbSubDefined_of_zero hsub),
    arbListening_of_zero s hsub, listenCheck, if_pos hs.line]

/-! ### The backoff -/

theorem transmitting (w : List Bool) {r : TxRegs} (hlow : r.low = false) : Quiet (s.transmitting w r) := by
  have hfree : (s.transmitting w r).inputs = [] := by simp [State.transmitting, hs.free]
  refine ⟨⟨hs.transmitting_undisturbed w r, by simp [hfree], ?_, ?_, ?_⟩, hfree, hlow⟩
  · simp [State.transmitting, hs.configured]
  · simp [State.transmitting, hs.noProbe]
  · simp [State.transmitting, hs.noReception]

end Quiet

/-- ARB's registers in a cycle of the backoff with `n` cycles left (44_arbitration.md R224). -/
def State.backingOff (s : State) (n : Nat) : TxRegs :=
  ⟨arbListeningCode, 1, n, s.txByteidx, s.txBitidx, false, s.events⟩

/-- A cycle of the backoff: its last one enters Starting (44_arbitration.md R224). -/
theorem State.backingOff_writes {s : State} {w : List Bool} {n : Nat} (hnotify : s.notify = false) (hpos : 1 ≤ n)
    (hn : n < 2 ^ 32) : s.arbWrites w (s.backingOff n)
      (if n = 1 then s.starting s.events 0 s.syncLowCyc else s.backingOff (n - 1)) := by
  have hquiet : ¬ (s.transmitting w (s.backingOff n)).notify = true := by simp [State.transmitting, hnotify]
  have hcnt : (s.transmitting w (s.backingOff n)).arbCnt = count n := rfl
  have hlast : count n = 1 ↔ n = 1 := count_inj hn (by decide)
  have hsync : (s.transmitting w (s.backingOff n)).syncLowCyc = s.syncLowCyc := by
    simp [State.transmitting, State.syncLowCyc, State.timing]
  rw [State.arbWrites, arbStep_of_listening rfl rfl, arbListening_of_one _ rfl, listenBackoff, if_neg hquiet, hcnt,
    State.enterStarting, hsync, count_sub_one hpos]
  simp only [hlast, apply_ite (s.transmitting w)]
  rfl

/-- The backoff lasts its count and then enters Starting, with the line released in all of its cycles. -/
theorem Quiet.stepN_backoff {s : State} (hs : Quiet s) (hnotify : s.notify = false) {n : Nat} (hpos : 1 ≤ n)
    (hn : n < 2 ^ 32) (w : List Bool) : stepN n (s.transmitting w (s.backingOff n))
      = some (s.transmitting (w ++ List.replicate n false) (s.starting s.events 0 s.syncLowCyc)) := by
  induction n generalizing w with
  | zero => exact absurd hpos (by decide)
  | succ n ih =>
    have hquiet := hs.transmitting w (r := s.backingOff (n + 1)) rfl
    have hwrites := State.backingOff_writes (w := w) hnotify hpos hn
    have hstep := hquiet.step_eq (arbNoEffect_listening rfl)
    rw [hwrites, hs.endCycle_transmitting] at hstep
    simp only [stepN, hstep]
    cases n with
    | zero => rfl
    | succ n =>
      have hrest := ih (Nat.le_add_left 1 n) (Nat.lt_of_succ_lt hn) (w ++ [false])
      rw [List.append_assoc] at hrest
      exact hrest

/-! ### From OUTQ to the line -/

/-- The first cycle of the backoff for a frame that was at the head of OUTQ two cycles before (44_arbitration.md R220,
R223). -/
def State.backoffFor (s : State) (f : List Byte) : State :=
  { s.holdFrame f with
    notify := false
    arbState := arbListeningCode
    arbSub := 1
    arbCnt := count (backoff s.modeAddr s.timing.delta)
    linePrev := true
    cycle := s.cycle + 2
    inputs := []
    drvTrace := false :: false :: s.drvTrace
    hostLock := false }

/-- The first cycle of Starting for that frame, after a backoff of `n` cycles (44_arbitration.md R224). -/
def State.startingFor (s : State) (f : List Byte) (n : Nat) : State :=
  (s.backoffFor f).transmitting (List.replicate n false) ((s.backoffFor f).starting s.events 0 s.syncLowCyc)

theorem State.startingFor_clock (s : State) (f : List Byte) (n : Nat) :
    (s.startingFor f n).cycle = s.cycle + 2 + n
    ∧ (s.startingFor f n).drvTrace = List.replicate n false ++ false :: false :: s.drvTrace := by
  constructor <;> simp [State.startingFor, State.transmitting, State.backoffFor]

theorem State.startingFor_line (s : State) (f : List Byte) (n : Nat) :
    (s.startingFor f n).arbState = arbStartingCode ∧ (s.startingFor f n).drvLow = true := ⟨rfl, rfl⟩

theorem State.startingFor_queues (s : State) (f : List Byte) (n : Nat) :
    (s.startingFor f n).outq = s.outq.tail ∧ (s.startingFor f n).replies = s.replies := by
  constructor <;> simp [State.startingFor, State.transmitting, State.backoffFor, State.holdFrame]

/-- ARB holds the frame. -/
theorem State.startingFor_held {s : State} {f : List Byte} (n : Nat) (hwf : s.txFrame.wf = true)
    (hlen : f.length ≤ Config.maxFrame) :
    (s.startingFor f n).txHeld = true ∧ (s.startingFor f n).txFrame.take (s.startingFor f n).txLen.toNat = f := by
  have hfits : f.length % 256 = f.length := Nat.mod_eq_of_lt (Nat.lt_succ_of_le hlen)
  constructor <;>
    simp [State.startingFor, State.transmitting, State.backoffFor, State.holdFrame, hfits, Memory.take_writeFrom hwf hlen]

section
variable {s : State} (hs : Quiet s) {f : List Byte} {q : List (List Byte)}
include hs

theorem Quiet.backoffFor : Quiet (s.backoffFor f) := by
  obtain ⟨-, hcalls, hwait, hret, -⟩ := hs.undisturbed
  exact ⟨⟨⟨rfl, hcalls, hwait, hret, rfl⟩, fun _ h => absurd h List.not_mem_nil, hs.configured, hs.noProbe, hs.noReception⟩,
    rfl, hs.released⟩

theorem Quiet.stepN_backoffFor (hw : Unoccupied s) (houtq : s.outq = f :: q) (hlen : f.length ≤ Config.maxFrame) :
    stepN 2 s = some (s.backoffFor f) := by
  have htake := hs.step_takes hw houtq hlen
  have htaken : Quiet ((s.holdFrame f).arbGo arbListeningCode) :=
    ⟨⟨hs.undisturbed, hs.noReset, hs.configured, hs.noProbe, hs.noReception⟩, hs.free, hs.released⟩
  have hnext := hs.after_cycle htaken
  have hcheck := hnext.step_checks rfl rfl
  simp only [stepN, htake, hcheck]
  rw [hnext.endCycle_of_quiet, hs.endCycle_of_quiet]
  rfl

/-- A frame at the head of OUTQ reaches the line: the cycle that takes it, the carrier check, and the backoff. -/
theorem Quiet.stepN_startingFor (hw : Unoccupied s) (houtq : s.outq = f :: q) (hlen : f.length ≤ Config.maxFrame)
    {n : Nat} (hn : n = backoff s.modeAddr s.timing.delta) (hpos : 1 ≤ n) (hmax : n < 2 ^ 32) :
    stepN (2 + n) s = some (s.startingFor f n) := by
  have hfirst : (s.backoffFor f).transmitting [] ((s.backoffFor f).backingOff n) = s.backoffFor f := by
    rw [hn]
    exact State.transmitting_self (by rw [State.backingOff, hs.backoffFor.released]; rfl) rfl
  have hbackoff := (hs.backoffFor (f := f)).stepN_backoff rfl hpos hmax []
  rw [hfirst] at hbackoff
  rw [stepN_add (hs.stepN_backoffFor hw houtq hlen), hbackoff]
  rfl

end

/-! ### The submission -/

theorem exec_submit_of_room {s : State} {f : List Byte} (w : Wait) (hwait : s.subWait = none) (hcfg : s.cfgValid = true)
    (hframe : fitsTag f = true) (hroom : s.outqRoom = true) : exec (.submit f w) s = .next (s.submitPush f) := by
  simp [exec, execSubmit, hwait, hcfg, hframe, hroom]

/-- With nothing to do ARB leaves the cycle of a quiet device to the calls issued in it (44_arbitration.md R221). -/
theorem Quiet.clockOut_of_idle {s : State} (hs : Quiet s) (hw : Unoccupied s) (houtq : s.outq = []) {s1 : State}
    (hlock : s1.hostLock = s.hostLock) : clockOut s s1 = .next (endCycle s s1) := by
  obtain ⟨-, -, hwait, hret, hunlocked⟩ := hs.undisturbed
  have heffect : s.arbNoEffect = none := arbNoEffect_waiting hw.waiting (.inr (.inr (by simp [houtq])))
  have hagents : agentFault s s1 = none := by
    simp [agentFault, rxIndexFault, diagIndexFault, hs.noReception, hs.noProbe, arbFault_of_arbNoEffect heffect]
  rw [clockOut, hagents]
  simp only [clock_of_arbRuns (hunlocked ▸ hs.arbRuns) s1 hlock, hostCycle_none s s1 hwait hret, hw.arbStep_of_idle houtq]

/-- The state without the calls to come. -/
def State.withoutCalls (s : State) : State := { s with calls := [] }

/-- The cycle after that of a SUBMIT accepted on a quiet device with nothing to do (45_host_ops.md R255). -/
def State.submitted (s : State) (f : List Byte) : State := { s with
  calls := []
  outq := s.outq ++ [f]
  subWait := none
  events := ⟨s.cycle, .submitOk⟩ :: s.events
  replies := ⟨s.cycle, 0x41, .status .ok⟩ :: s.replies
  linePrev := true
  cycle := s.cycle + 1
  inputs := []
  drvTrace := false :: s.drvTrace
  hostLock := false }

theorem Quiet.submitted {s : State} (hs : Quiet s.withoutCalls) (f : List Byte) : Quiet (s.submitted f) := by
  obtain ⟨-, -, -, hret, -⟩ := hs.undisturbed
  exact ⟨⟨⟨rfl, rfl, rfl, hret, rfl⟩, fun _ h => absurd h List.not_mem_nil, hs.configured, hs.noProbe, hs.noReception⟩,
    rfl, hs.released⟩

/-- A frame submitted alone on a quiet device with nothing to do: the cycle queues it, and ARB does not see it yet
(45_host_ops.md R255, 20_memory.md R77). -/
theorem step_submits {s : State} {f : List Byte} {w : Wait} (hs : Quiet s.withoutCalls)
    (hw : Unoccupied s.withoutCalls) (houtq : s.outq = []) (hroom : 1 ≤ s.params.outqDepth) (hframe : fitsTag f = true)
    (hcalls : s.calls = [⟨s.cycle, .host, encode (.submit f w)⟩]) : step s = .next (s.submitted f) := by
  obtain ⟨hrst, -, hwait, -, -⟩ := hs.undisturbed
  have hwf : (Instr.submit f w).wellFormed = true :=
    decide_eq_true (Nat.lt_of_le_of_lt (fitsTag_length hframe).2 (by decide))
  have hdecode : decode (encode (.submit f w)) = .ok (.submit f w) := by
    simpa using decode_encode (.submit f w) [] hwf
  have hroom : s.withoutCalls.outqRoom = true := by
    have hempty : s.withoutCalls.outq.length = 0 := congrArg List.length houtq
    rw [State.outqRoom, hempty]
    exact decide_eq_true hroom
  have hexec := exec_submit_of_room w hwait hs.configured hframe hroom
  have hidle := hs.clockOut_of_idle (s1 := s.withoutCalls.submitPush f) hw houtq rfl
  have hstep : step s = andThen (exec (.submit f w) s.withoutCalls) (clockOut s.withoutCalls) :=
    step_host_alone hrst hcalls (Nat.le_refl _) rfl (hostOp_of_decode hdecode rfl) rfl
  rw [hstep, hexec, andThen_next_left, hidle, hs.endCycle_of_quiet]
  rfl

/-- BACKOFF of an address is at least one cycle and a count (44_arbitration.md R224, 00_scope.md R7). -/
theorem backoff_bounds (addr : Byte) {delta : Nat} (hmin : 15 ≤ delta) (hmax : 261 * delta < 2 ^ 32) :
    1 ≤ backoff addr delta ∧ backoff addr delta < 2 ^ 32 := by
  have haddr : addr.toNat ≤ 255 := Nat.le_of_lt_succ addr.isLt
  have hlow : 6 * delta ≤ (addr.toNat + 6) * delta := Nat.mul_le_mul_right delta (by omega)
  have hhigh : (addr.toNat + 6) * delta ≤ 261 * delta := Nat.mul_le_mul_right delta (by omega)
  rw [backoff]
  omega

/-- Settles O43: the cycle of the SUBMIT, the one that takes the frame, the carrier check, and the backoff. -/
theorem submissionReachesTheLineOnTime : Obligations.SubmissionReachesTheLineOnTime := by
  intro s f B hcfg hfree _ hreleased hrx hprobe hlock hwait hret hstate hsub hring houtq hheld hwf hroom hmin hmax hframe
    hcalls hB
  rw [← fitsTag_eq_isFrameBytes] at hframe
  have hlen := (fitsTag_length hframe).2
  obtain ⟨hpos, hcount⟩ : 1 ≤ B ∧ B < 2 ^ 32 := hB ▸ backoff_bounds s.modeAddr hmin hmax
  have hrst : ∀ c ∈ s.inputs, c.rst = false := by simp [hfree]
  have hquiet : Quiet s.withoutCalls :=
    ⟨⟨⟨inputNow_rst_of_inputs (s := s.withoutCalls) hrst, rfl, hwait, hret, hlock⟩, hrst, hcfg, hprobe, hrx⟩, hfree, hreleased⟩
  have hsubmit := step_submits hquiet ⟨hstate, hsub, hring, hheld⟩ houtq hroom hframe hcalls
  have hqueued : (s.submitted f).outq = [f] := congrArg (· ++ [f]) houtq
  have hreach := (hquiet.submitted f).stepN_startingFor ⟨hstate, hsub, hring, hheld⟩ hqueued hlen hB hpos hcount
  obtain ⟨hcycle, htrace⟩ := (s.submitted f).startingFor_clock f B
  obtain ⟨hstarting, hlow⟩ := (s.submitted f).startingFor_line f B
  obtain ⟨htaken, hreplies⟩ := (s.submitted f).startingFor_queues f B
  obtain ⟨hholds, hframe'⟩ := State.startingFor_held (s := s.submitted f) B hwf hlen
  refine ⟨(s.submitted f).startingFor f B, ?_, ?_, hstarting, hlow, ?_, hholds, hframe', ?_, hreplies⟩
  · rw [show 3 + B = 2 + B + 1 by omega]
    simp only [stepN, hsubmit, hreach]
  · rw [hcycle]
    show s.cycle + 1 + 2 + B = _
    omega
  · rw [htrace, Nat.add_comm, ← List.replicate_append_replicate, List.append_assoc]
    rfl
  · rw [htaken, hqueued]
    rfl

end Sys2Proof.Machine
end

section
/-! SUPPORT. Obligation O4: a record of HOST that holds no operation of HOST. The decoder gives every operation the id its record
begins with, so that a record with another id than HOST's eight holds none, and E_BAD_OP is all its cycle adds. -/

namespace Sys2Proof

/-! ### The id of a decoded operation -/

/-- Every operation that the decoding of an operand record gives has the id. -/
def GivesId (id : Byte) (e : Except DecodeError Instr) : Prop := ∀ i, e = .ok i → opId i = id

theorem givesId_ok {id : Byte} {i : Instr} (h : opId i = id) : GivesId id (.ok i) := by
  rintro _ ⟨⟩
  exact h

theorem givesId_error (id : Byte) (e : DecodeError) : GivesId id (.error e) := fun _ h => nomatch h

theorem decodeDriveBit_givesId (r : List Byte) : GivesId 0x03 (decodeDriveBit r) := by
  unfold decodeDriveBit
  split
  · exact givesId_ok rfl
  · split
    · exact givesId_ok rfl
    · exact givesId_error _ _

theorem decodeSerialize_givesId (r : List Byte) : GivesId 0x11 (decodeSerialize r) := by
  unfold decodeSerialize
  split
  · exact givesId_ok rfl
  · split
    · exact givesId_ok rfl
    · exact givesId_error _ _

theorem decodeInit_givesId (r : List Byte) : GivesId 0x40 (decodeInit r) := by
  unfold decodeInit
  dsimp only
  split
  · exact givesId_ok rfl
  · exact givesId_error _ _

theorem decodeSubmit_givesId (r : List Byte) : GivesId 0x41 (decodeSubmit r) := by
  unfold decodeSubmit
  dsimp only
  split
  · exact givesId_ok rfl
  · split
    · exact givesId_ok rfl
    · exact givesId_error _ _

theorem decodeFrameGeneric_givesId (r : List Byte) : GivesId 0x80 (decodeFrameGeneric r) := by
  unfold decodeFrameGeneric
  split
  · exact givesId_error _ _
  · exact givesId_ok rfl

/-- The decoder reads an operation only behind the operation's own id (30_encoding.md R120). -/
theorem decodeId_givesId (id : Byte) (r : List Byte) : GivesId id (decodeId id r) := by
  have own {k : Byte} (h : id.toNat = k.toNat) {e : Except DecodeError Instr} (he : GivesId k e) : GivesId id e :=
    BitVec.eq_of_toNat_eq h ▸ he
  unfold decodeId
  -- The five rows of the id table with operands that may be refused, the row of no id, and the rest.
  split
  case h_4 h => exact own (k := 0x03) h (decodeDriveBit_givesId r)
  case h_6 h => exact own (k := 0x11) h (decodeSerialize_givesId r)
  case h_18 h => exact own (k := 0x40) h (decodeInit_givesId r)
  case h_19 h => exact own (k := 0x41) h (decodeSubmit_givesId r)
  case h_26 h => exact own (k := 0x80) h (decodeFrameGeneric_givesId r)
  case h_32 => exact givesId_error _ _
  all_goals exact givesId_ok (BitVec.eq_of_toNat_eq (Eq.symm ‹_›))

/-- HOST's operations have HOST's ids (30_encoding.md R120). -/
theorem opId_mem_hostIds {i : Instr} (h : issuerOf i = .host) : opId i ∈ Laws.hostIds := by
  cases i with
  | validate | init | submit | retrieve | readStatus | diagElec | diagTiming | diagYield => simp [opId, Laws.hostIds]
  | _ => cases h

end Sys2Proof

namespace Sys2Proof.Machine

/-! ### A record that holds no operation of HOST -/

theorem hostOp_eq_none {due : Nat} {who : Issuer} {id : Byte} {r : List Byte} (h : id ∉ Laws.hostIds) :
    hostOp ⟨due, who, id :: r⟩ = none := by
  unfold hostOp
  split
  next i hi =>
    have hid : opId i = id := decodeId_givesId id r i hi
    exact if_neg fun hhost => h (hid ▸ opId_mem_hostIds hhost)
  next => rfl

/-- The answer E_BAD_OP alone in its cycle, with the agents around it (45_host_ops.md R250). -/
theorem hostCalls_badOp {c : Call} (s : State) (ho : hostOp c = none) : hostCalls [c] s = clockOut s (s.badOp c) := by
  have hnone : [c].filterMap hostOp = [] := by simp [ho]
  have hbad : badOps [c] s = s.badOp c := by simp [badOps, ho]
  simp only [hostCalls, hnone, hbad]
  rfl

/-- Settles O4: the record holds no operation of HOST, and its cycle is the agents' beside the answer. -/
theorem unlistedAndInternalIdsAreRefused : Obligations.UnlistedAndInternalIdsAreRefused := by
  intro s due id r hrst hcalls hdue hid
  have hfetch : s.fetch = .host [⟨due, .host, id :: r⟩] [] := State.fetch_host_alone hcalls hdue rfl rfl
  rw [step_of_fetch hrst hfetch, runFetch, hostCalls_badOp _ (hostOp_eq_none hid)]
  rfl

end Sys2Proof.Machine
end

section
/-! SUPPORT. Obligations O44, O45, O46, O48, O50 and O51: the operations of HOST in their cycle of issue, each by the test that
decides it. -/

namespace Sys2Proof.Machine

/-! ### INIT -/

theorem State.arbActive_iff (s : State) : s.arbActive = true ↔ s.arbState.toNat ∈ [1, 2, 3, 4] := by
  have code (c : BitVec 3) : s.arbState = c ↔ s.arbState.toNat = c.toNat := BitVec.toNat_inj.symm
  simp [State.arbActive, code, or_assoc]

/-- What makes INIT answer E_BUSY (45_host_ops.md R253). -/
theorem State.busy_iff (s : State) : s.busy = true ↔ s.cfgValid = true ∧
    (s.arbState.toNat ∈ [1, 2, 3, 4] ∨ s.rxActive = true ∨ s.trig = true ∨ s.diagMode = true
      ∨ s.subWait ≠ none ∨ s.retWait = true) := by
  simp only [State.busy, State.hostWaits, Bool.and_eq_true, Bool.or_eq_true, State.arbActive_iff, or_assoc,
    Option.isSome_iff_ne_none]

section
variable {m : BusMode} {s : State}

theorem State.initStatus_of_addr_zero (haddr : m.addr = 0) : s.initStatus m = .eAddrZero := if_pos haddr

theorem State.initStatus_of_unfit_pin (haddr : m.addr ≠ 0) (hpin : s.inputNow.pinOk = false) :
    s.initStatus m = .ePin := by
  rw [State.initStatus, if_neg haddr, if_pos hpin]

theorem State.initStatus_of_fit (haddr : m.addr ≠ 0) (hpin : s.inputNow.pinOk = true) :
    s.initStatus m = if s.busy then .eBusy else .ok := by
  rw [State.initStatus, if_neg haddr, if_neg (by simp [hpin])]

/-- A refused INIT leaves its event and its answer, and nothing else. -/
theorem exec_init_refused {st : Status} (h : s.initStatus m = st) (hst : st ≠ .ok) :
    exec (.init m) s = .next ((s.raise (.initFail st)).reply 0x40 (.status st)) := by
  subst h
  show execInit m s = _
  unfold execInit
  split
  next hok => exact absurd hok hst
  next => rfl

theorem exec_init_accepted (h : s.initStatus m = .ok) :
    exec (.init m) s = .next (((s.configure m).raise .initOk).reply 0x40 (.status .ok)) := by
  show execInit m s = _
  simp only [execInit, h]

end

/-- Settles O44: the three tests in their order. -/
theorem initRefusesInOrder : Obligations.InitRefusesInOrder := by
  intro m s
  refine ⟨fun haddr => ?addr, fun haddr hpin => ?pin, fun haddr hpin hcfg hactive => ?busy⟩
  case addr => exact exec_init_refused (State.initStatus_of_addr_zero haddr) (by decide)
  case pin => exact exec_init_refused (State.initStatus_of_unfit_pin haddr hpin) (by decide)
  case busy =>
    have hbusy : s.busy = true := s.busy_iff.mpr ⟨hcfg, hactive⟩
    exact exec_init_refused ((State.initStatus_of_fit haddr hpin).trans (if_pos hbusy)) (by decide)

/-! ### A legal profile latched -/

/-- What the constraints of 00_scope.md R7 say of each grade: a legal profile that fits the registers. -/
theorem grade_bounds_of_legal {p : Config.Params} (h : p.legal = true) (g : BitVec 2) :
    15 ≤ p.delta.get g ∧ 261 * p.delta.get g < 2 ^ 32 ∧ 0 < p.tol.get g ∧ 2 * p.tol.get g < p.delta.get g := by
  simp only [Config.Params.legal, Bool.and_eq_true, decide_eq_true_eq, and_assoc] at h
  obtain ⟨h01, h12, h23, hmin, hmax, ht0, ht1, ht2, ht3, -⟩ := h
  have hgrade : g = 0 ∨ g = 1 ∨ g = 2 ∨ g = 3 := by bv_omega
  have hdelta : 15 ≤ p.delta.get g ∧ 261 * p.delta.get g < 2 ^ 32 := by
    rcases hgrade with rfl | rfl | rfl | rfl <;> simp only [Config.PerGrade.get, BitVec.reduceToNat] <;> omega
  have htol : p.tolOk g = true := by rcases hgrade with rfl | rfl | rfl | rfl <;> assumption
  simp only [Config.Params.tolOk, Bool.and_eq_true, decide_eq_true_eq] at htol
  exact ⟨hdelta.1, hdelta.2, htol⟩

/-- The profile that an INIT with legal parameters latches, as numbers: no register of 32 bits overflows (10_state.md R27). -/
theorem State.configure_timing {s : State} (h : s.params.legal = true) (m : BusMode) : (s.configure m).timing =
    ⟨s.params.delta.get m.grade, s.params.tol.get m.grade, s.params.delta.get m.grade - s.params.tol.get m.grade,
      s.params.delta.get m.grade + s.params.tol.get m.grade⟩ := by
  obtain ⟨-, hmax, -, htol⟩ := grade_bounds_of_legal h m.grade
  rw [Timing.mk.injEq]
  exact ⟨count_toNat (by omega), count_toNat (by omega), count_toNat (by omega), count_toNat (by omega)⟩

/-- Settles O45: the writes of an INIT that no test refuses. -/
theorem initConfiguresTheBlock : Obligations.InitConfiguresTheBlock := by
  intro m s haddr hpin hidle hlegal
  have hok : s.initStatus m = .ok := (State.initStatus_of_fit haddr hpin).trans (if_neg (by simp [hidle]))
  obtain ⟨hmin, -, hpos, htol⟩ := grade_bounds_of_legal hlegal m.grade
  have htiming := s.configure_timing hlegal m
  refine ⟨_, exec_init_accepted hok, congrArg Timing.delta htiming, congrArg Timing.tol htiming,
    congrArg Timing.wmin htiming, congrArg Timing.wmax htiming, ?legal, rfl, fun b i => ?storage⟩
  case legal =>
    show (s.configure m).timing.legal
    rw [htiming]
    exact ⟨hmin, hpos, htol, rfl, rfl⟩
  case storage => cases b <;> rfl

/-! ### SUBMIT and RETRIEVE -/

section
variable {s : State} {b : List Byte} (w : Wait) (hwait : s.subWait = none)
include hwait

theorem exec_submit_of_unconfigured (hcfg : s.cfgValid = false) :
    exec (.submit b w) s = .next (s.reply 0x41 (.status .eNotInit)) := by
  simp [exec, execSubmit, hwait, hcfg]

theorem exec_submit_of_no_frame (hcfg : s.cfgValid = true) (hframe : fitsTag b = false) :
    exec (.submit b w) s = .next (s.reply 0x41 (.status .eLength)) := by
  simp [exec, execSubmit, hwait, hcfg, hframe]

/-- Without room the wait decides: 0 is a single attempt (45_host_ops.md R255, R256). -/
theorem exec_submit_of_full (hcfg : s.cfgValid = true) (hframe : fitsTag b = true) (hfull : s.outqRoom = false) :
    exec (.submit b w) s = if w = .cycles 0 then .next s.submitFull else .next { s with subWait := some ⟨b, w⟩ } := by
  simp [exec, execSubmit, hwait, hcfg, hframe, hfull]

end

theorem State.outqRoom_of_lt {s : State} (h : s.outq.length < s.params.outqDepth) : s.outqRoom = true := decide_eq_true h

theorem State.outqRoom_of_le {s : State} (h : s.params.outqDepth ≤ s.outq.length) : s.outqRoom = false :=
  decide_eq_false (Nat.not_lt.mpr h)

/-- Settles O46: the length, then the room, then the wait. -/
theorem submitQueuesOrRefuses : Obligations.SubmitQueuesOrRefuses := by
  intro b w s hcfg hwait
  rw [← fitsTag_eq_isFrameBytes]
  have full (hframe : fitsTag b = true) (hfull : s.params.outqDepth ≤ s.outq.length) :=
    exec_submit_of_full w hwait hcfg hframe (State.outqRoom_of_le hfull)
  refine ⟨fun hframe => ?length, fun hframe hroom => ?push, fun hframe hfull hw => ?refused, fun hframe hfull hw => ?waits⟩
  case length => exact exec_submit_of_no_frame w hwait hcfg hframe
  case push => exact exec_submit_of_room w hwait hcfg hframe (State.outqRoom_of_lt hroom)
  case refused => exact (full hframe hfull).trans (if_pos hw)
  case waits => exact (full hframe hfull).trans (if_neg hw)

section
variable {s : State} (hwait : s.retWait = false)
include hwait

theorem exec_retrieve_of_unconfigured (hcfg : s.cfgValid = false) :
    exec .retrieve s = .next (s.reply 0x42 (.retrieved .eNotInit none)) := by
  simp [exec, execRetrieve, hwait, hcfg]

theorem exec_retrieve_of_frame (hcfg : s.cfgValid = true) {b : List Byte} {q : List (List Byte)} (hinq : s.inq = b :: q) :
    exec .retrieve s = .next (s.retrievePop b) := by
  simp [exec, execRetrieve, hwait, hcfg, hinq]

/-- With INQ empty the policy decides (45_host_ops.md R258). -/
theorem exec_retrieve_of_empty (hcfg : s.cfgValid = true) (hinq : s.inq = []) : exec .retrieve s =
    if s.modeRdpol then .next { s with retWait := true }
    else .next ((s.raise .retrieveNone).reply 0x42 (.retrieved .none none)) := by
  simp [exec, execRetrieve, hwait, hcfg, hinq]

end

theorem State.retrievePop_eq {s : State} {b : List Byte} {q : List (List Byte)} (h : s.inq = b :: q) :
    s.retrievePop b = { s with
      inq := q
      retWait := false
      events := ⟨s.cycle, .retrieveOk⟩ :: s.events
      replies := ⟨s.cycle, 0x42, .retrieved .ok (some b)⟩ :: s.replies } := by
  have htail : s.inq.tail = q := congrArg List.tail h
  rw [← htail]
  rfl

/-- Settles O48: the frame at the head of INQ, or the policy. -/
theorem retrieveFollowsThePolicy : Obligations.RetrieveFollowsThePolicy := by
  intro s hcfg hwait
  refine ⟨fun b q hinq => ?frame, fun hinq hinstant => ?instant, fun hinq hasync => ?async⟩
  case frame => rw [exec_retrieve_of_frame hwait hcfg hinq, State.retrievePop_eq hinq]
  case instant => exact (exec_retrieve_of_empty hwait hcfg hinq).trans (if_neg (by simp [hinstant]))
  case async => exact (exec_retrieve_of_empty hwait hcfg hinq).trans (if_pos hasync)

/-! ### READ_STATUS, and the block before INIT -/

/-- Settles O50: READ_STATUS answers and writes nothing. -/
theorem readStatusOnlyReads : Obligations.ReadStatusOnlyReads := fun _ => rfl

theorem issueProbe_of_unconfigured {s : State} (p : Probe) (start : State → State) (hcfg : s.cfgValid = false) :
    issueProbe p start s = .next (s.reply p.opId (.status .eNotInit)) := by
  simp [issueProbe, State.probeStatus, hcfg]

/-- Settles O51: CFG_VALID is what each of the five looks at first. -/
theorem nothingRunsBeforeInit : Obligations.NothingRunsBeforeInit := by
  intro b w s hcfg hwait hret
  exact ⟨exec_submit_of_unconfigured w hwait hcfg, exec_retrieve_of_unconfigured hret hcfg,
    issueProbe_of_unconfigured .elec _ hcfg, issueProbe_of_unconfigured .timing _ hcfg,
    issueProbe_of_unconfigured .yield _ hcfg⟩

end Sys2Proof.Machine
end

section
/-! SUPPORT. Obligations O47 and O49: a clock cycle in which a SUBMIT or a RETRIEVE waits. The attempt of each is made on the
contents at the start of the cycle and leaves the other's registers alone; of the agents only ARB touches INQ and OUTQ, by at
most one frame, and only DIAG answers, under the id of a probe. -/

namespace Sys2Proof.Machine

/-! ### The latest answer under an id -/

/-- The latest answer that was given under an id. -/
def State.lastReply (s : State) (op : Byte) : Option Reply := s.replies.find? (fun r => r.op == op)

theorem State.lastReply_congr {s t : State} (h : t.replies = s.replies) (op : Byte) : t.lastReply op = s.lastReply op :=
  congrArg (List.find? fun r : Reply => r.op == op) h

section
variable {op : Byte} (hop : ∀ p, Probe.opId p ≠ op)
include hop

theorem elecStep_lastReply (s0 s : State) : (elecStep s0 s).lastReply op = s.lastReply op := by
  unfold elecStep
  split <;>
    simp [State.lastReply, hop, elecFall, elecRise, State.endElec, diagUnreachable, apply_ite State.replies,
      apply_ite (List.find? _)]

theorem timingStep_lastReply (s0 s : State) : (timingStep s0 s).lastReply op = s.lastReply op := by
  unfold timingStep
  split <;>
    simp [State.lastReply, hop, timingEdge, timingSyncLow, timingSyncHigh, timingBsLow, timingBitLow, timingBitHigh,
      timingBitDone, timingByteDone, timingLastGuard, timingTrailing, timingComplete, timingCeiling, timingFault,
      State.finishTiming, State.recordWidth, diagUnreachable, apply_ite State.replies, apply_ite (List.find? _)]

theorem yieldStep_lastReply (s0 s : State) : (yieldStep s0 s).lastReply op = s.lastReply op := by
  unfold yieldStep
  split <;>
    simp [State.lastReply, hop, yieldEdge, yieldSyncLow, yieldSyncHigh, yieldBsLow, yieldBitLow, yieldBitHigh, yieldGuard,
      yieldInjLow, yieldAfterHigh, yieldAfterLow, yieldCeiling, yieldFault, State.endYield, State.injectHigh,
      diagUnreachable, apply_ite State.replies, apply_ite (List.find? _)]

/-- DIAG answers under the id of a probe only (46_diagnostic.md R273). -/
theorem diagCycle_lastReply (s0 s : State) : (diagCycle s0 s).lastReply op = s.lastReply op := by
  unfold diagCycle
  split
  · unfold diagStep
    split
    · exact elecStep_lastReply hop s0 s
    · exact timingStep_lastReply hop s0 s
    · exact yieldStep_lastReply hop s0 s
    · rfl
  · rfl

/-- What the agents of a clock cycle answer is under the id of a probe. -/
theorem clock_lastReply (s0 s1 : State) : (clock s0 s1).lastReply op = (hostCycle s0 s1).lastReply op := by
  have hagents : (arbCycle s0 (rxCycle s0 (hostCycle s0 s1))).replies = (hostCycle s0 s1).replies := by
    rw [arbCycle_only, rxCycle_only]
  exact (diagCycle_lastReply hop s0 _).trans (State.lastReply_congr hagents op)

end

/-! ### ARB on INQ and OUTQ -/

/-- A FIFO keeps its elements, and at most one comes behind them. -/
def PushesAtMostOne (q q' : List (List Byte)) : Prop := q' = q ∨ ∃ x, q' = q ++ [x]

theorem PushesAtMostOne.length_le {q q' : List (List Byte)} (h : PushesAtMostOne q q') : q'.length ≤ q.length + 1 := by
  rcases h with rfl | ⟨x, rfl⟩
  · exact Nat.le_succ _
  · exact Nat.le_of_eq List.length_append

theorem arbWaiting_inq (s0 s : State) : (arbWaiting s0 s).inq = s.inq := by
  unfold arbWaiting
  split
  · rfl
  · split
    · rfl
    · split <;> rfl

/-- Waiting takes the oldest frame when no capture and no held frame comes first (44_arbitration.md R218 to R221). -/
theorem arbWaiting_outq (s0 s : State) : (arbWaiting s0 s).outq =
    if s0.ring = [] ∧ s0.txHeld = false ∧ s0.outq ≠ [] then s.outq.tail else s.outq := by
  unfold arbWaiting
  split
  next hring => simp [hring]
  next hring =>
    split
    next hheld => simp [hheld]
    next hheld => split <;> simp_all [State.holdFrame]

theorem arbListening_queues (s0 s : State) : (arbListening s0 s).inq = s.inq ∧ (arbListening s0 s).outq = s.outq := by
  simp [arbListening, listenBackoff, listenCheck, State.enterStarting, apply_ite State.inq, apply_ite State.outq]

theorem arbStarting_queues (s0 s : State) : (arbStarting s0 s).inq = s.inq ∧ (arbStarting s0 s).outq = s.outq := by
  simp [arbStarting, startBsHigh, startBsLow, startSyncLow, State.raiseTxStart, State.enterCell, apply_ite State.inq,
    apply_ite State.outq]

theorem arbSending_queues (s0 s : State) : (arbSending s0 s).inq = s.inq ∧ (arbSending s0 s).outq = s.outq := by
  simp [arbSending, sendGuard, guardEnd, sendHigh, State.enterCell, State.toListening, State.sendDone, apply_ite State.inq,
    apply_ite State.outq]

/-- Reading pushes the capture it has popped when INQ has room (44_arbitration.md R235). -/
theorem arbReading_queues (s0 s : State) :
    PushesAtMostOne s.inq (arbReading s0 s).inq ∧ (arbReading s0 s).outq = s.outq := by
  unfold arbReading
  split
  · unfold readWait
    split
    · exact ⟨.inr ⟨_, rfl⟩, rfl⟩
    · split <;> exact ⟨.inl rfl, rfl⟩
  · unfold readPop
    split <;> exact ⟨.inl rfl, rfl⟩

section
variable {op : State → State → State} {s0 : State}

theorem arbRun_pushesAtMostOne (h : ∀ s, PushesAtMostOne s.inq (op s0 s).inq) (s : State) :
    PushesAtMostOne s.inq (arbRun op s0 s).inq := by
  unfold arbRun
  split
  · exact h s
  · split
    · exact h s.flagInvariant
    · exact .inl rfl

theorem arbRun_outq (h : ∀ s, (op s0 s).outq = s.outq) (s : State) : (arbRun op s0 s).outq = s.outq := by
  unfold arbRun
  split
  · exact h s
  · split
    · exact h s.flagInvariant
    · rfl

end

theorem arbStep_pushesAtMostOne (s0 s : State) : PushesAtMostOne s.inq (arbStep s0 s).inq := by
  unfold arbStep
  split
  · exact arbRun_pushesAtMostOne (fun s => .inl (arbWaiting_inq s0 s)) s
  · exact arbRun_pushesAtMostOne (fun s => .inl (arbListening_queues s0 s).1) s
  · exact arbRun_pushesAtMostOne (fun s => .inl (arbStarting_queues s0 s).1) s
  · exact arbRun_pushesAtMostOne (fun s => .inl (arbSending_queues s0 s).1) s
  · exact arbRun_pushesAtMostOne (fun s => (arbReading_queues s0 s).1) s
  · exact .inl rfl

/-- Only Waiting takes a frame of OUTQ (44_arbitration.md R220). -/
theorem arbStep_outq_of_not_waiting {s0 : State} (h : s0.arbState ≠ arbWaitingCode) (s : State) :
    (arbStep s0 s).outq = s.outq := by
  unfold arbStep
  split
  next hcode => exact absurd (BitVec.eq_of_toNat_eq hcode) h
  · exact arbRun_outq (fun s => (arbListening_queues s0 s).2) s
  · exact arbRun_outq (fun s => (arbStarting_queues s0 s).2) s
  · exact arbRun_outq (fun s => (arbSending_queues s0 s).2) s
  · exact arbRun_outq (fun s => (arbReading_queues s0 s).2) s
  · rfl

theorem arbStep_outq {s0 : State} (hsub : s0.arbSubDefined = true) (s : State) : (arbStep s0 s).outq =
    if s0.arbState = arbWaitingCode ∧ s0.ring = [] ∧ s0.txHeld = false ∧ s0.outq ≠ [] then s.outq.tail else s.outq := by
  by_cases hstate : s0.arbState = arbWaitingCode
  · have hcode : s0.arbState.toNat = 0 := congrArg BitVec.toNat hstate
    have hstep : arbStep s0 s = arbWaiting s0 s := by simp only [arbStep, hcode, arbRun_defined arbWaiting s0 s hsub]
    simp only [hstep, arbWaiting_outq, hstate, true_and]
  · rw [arbStep_outq_of_not_waiting hstate, if_neg fun h => hstate h.1]

/-! ### INQ and OUTQ in a clock cycle -/

theorem clock_pushesAtMostOne (s0 s1 : State) : PushesAtMostOne (hostCycle s0 s1).inq (clock s0 s1).inq := by
  have hdiag : (clock s0 s1).inq = (arbCycle s0 (rxCycle s0 (hostCycle s0 s1))).inq := by
    rw [clock, State.endCycle_inq, diagCycle_only]
  have hrx : (rxCycle s0 (hostCycle s0 s1)).inq = (hostCycle s0 s1).inq := by rw [rxCycle_only]
  rw [hdiag, ← hrx]
  unfold arbCycle
  split
  · exact arbStep_pushesAtMostOne s0 _
  · exact .inl rfl

/-- ARB takes the oldest frame of OUTQ from behind what the waiting SUBMIT has pushed (20_memory.md R77). -/
theorem clock_outq {s : State} (hsub : s.arbSubDefined = true) (hlock : s.hostLock = false) : (clock s s).outq =
    if s.arbRuns false = true ∧ s.arbState = arbWaitingCode ∧ s.ring = [] ∧ s.txHeld = false ∧ s.outq ≠ []
    then (hostCycle s s).outq.tail else (hostCycle s s).outq := by
  cases hr : s.arbRuns false with
  | true =>
    rw [clock_of_arbRuns (hlock ▸ hr) s rfl, State.endCycle_outq, arbStep_outq hsub]
    simp only [true_and]
  | false =>
    have hunlocked : (rxCycle s (hostCycle s s)).hostLock = false := by rw [rxCycle_only, hostCycle_only, hlock]
    rw [clock, State.endCycle_outq, diagCycle_only, arbCycle_still s _ (hunlocked ▸ hr), rxCycle_only]
    simp

theorem clock_waiting (s0 s1 : State) : (clock s0 s1).subWait = (hostCycle s0 s1).subWait
    ∧ (clock s0 s1).retWait = (hostCycle s0 s1).retWait := by
  constructor
  · rw [clock, State.endCycle_subWait, diagCycle_only, arbCycle_only, rxCycle_only]
  · rw [clock, State.endCycle_retWait, diagCycle_only, arbCycle_only, rxCycle_only]

/-- A step without a call due and without reset that does not stop is the clock cycle. -/
theorem eq_clock_of_step {s t : State} (hrst : s.inputNow.rst = false) (hcalls : s.calls = []) (h : step s = .next t) :
    t = clock s s := by
  rw [step_quiet s hrst (by simp [hcalls]), clockOut] at h
  split at h <;> cases h
  rfl

/-! ### The waiting calls -/

theorem retrieveCycle_of_frame {s0 : State} (s : State) {b : List Byte} {q : List (List Byte)} (hwait : s0.retWait = true)
    (hinq : s0.inq = b :: q) : retrieveCycle s0 s = s.retrievePop b := by
  simp only [retrieveCycle, hwait, hinq, if_true]

theorem retrieveCycle_of_empty {s0 : State} (s : State) (hinq : s0.inq = []) : retrieveCycle s0 s = s := by
  simp only [retrieveCycle, hinq, ite_self]

/-- RETRIEVE leaves OUTQ and the waiting SUBMIT alone. -/
theorem retrieveCycle_keeps (s0 s : State) : (retrieveCycle s0 s).outq = s.outq
    ∧ (retrieveCycle s0 s).subWait = s.subWait ∧ (retrieveCycle s0 s).cycle = s.cycle := by
  unfold retrieveCycle
  split
  · split <;> exact ⟨rfl, rfl, rfl⟩
  · exact ⟨rfl, rfl, rfl⟩

theorem submitCycle_of_room {s0 : State} (s : State) {w : Waiting} (hwait : s0.subWait = some w)
    (hroom : s0.outqRoom = true) : submitCycle s0 s = s.submitPush w.frame := by
  simp only [submitCycle, hwait, hroom, if_true]

theorem submitCycle_of_full {s0 : State} (s : State) {w : Waiting} (hwait : s0.subWait = some w)
    (hfull : s0.outqRoom = false) : submitCycle s0 s = submitWaits s w := by
  simp only [submitCycle, hwait, hfull, Bool.false_eq_true, if_false]

/-- SUBMIT leaves INQ and the waiting RETRIEVE alone, and answers under its own id. -/
theorem submitCycle_keeps (s0 s : State) : (submitCycle s0 s).inq = s.inq ∧ (submitCycle s0 s).retWait = s.retWait
    ∧ (submitCycle s0 s).lastReply 0x42 = s.lastReply 0x42 := by
  unfold submitCycle
  split
  · exact ⟨rfl, rfl, rfl⟩
  · split
    · exact ⟨rfl, rfl, rfl⟩
    · unfold submitWaits
      split
      · exact ⟨rfl, rfl, rfl⟩
      · split <;> exact ⟨rfl, rfl, rfl⟩

theorem submitWaits_of_forever (s : State) {w : Waiting} (h : w.left = .forever) : submitWaits s w = s := by
  simp only [submitWaits, h]

theorem submitWaits_of_last (s : State) {w : Waiting} {n : Count} (h : w.left = .cycles n) (hn : n.toNat ≤ 1) :
    submitWaits s w = s.submitFull := by
  simp only [submitWaits, h, hn, if_true]

theorem submitWaits_of_more (s : State) {w : Waiting} {n : Count} (h : w.left = .cycles n) (hn : 1 < n.toNat) :
    submitWaits s w = { s with subWait := some ⟨w.frame, .cycles (n - 1)⟩ } := by
  simp only [submitWaits, h, Nat.not_le.mpr hn, if_false]

/-! ### The statements -/

/-- Settles O49: what the waiting RETRIEVE pops, behind which ARB may push one frame. -/
theorem waitingRetrieveSeesTheStartOfTheCycle : Obligations.WaitingRetrieveSeesTheStartOfTheCycle := by
  intro s t hrst hcalls _ hwait hstep
  obtain rfl := eq_clock_of_step hrst hcalls hstep
  obtain ⟨-, hret⟩ := clock_waiting s s
  obtain ⟨hinq, hkept, hreply⟩ := submitCycle_keeps s (retrieveCycle s s)
  have hpush : PushesAtMostOne (retrieveCycle s s).inq (clock s s).inq := hinq ▸ clock_pushesAtMostOne s s
  have hret : (clock s s).retWait = (retrieveCycle s s).retWait := hret.trans hkept
  have hanswer : (clock s s).lastReply 0x42 = (retrieveCycle s s).lastReply 0x42 :=
    (clock_lastReply (fun p => by cases p <;> decide) s s).trans hreply
  refine ⟨fun hempty => ?empty, fun b q hframe => ?frame⟩
  case empty =>
    rw [retrieveCycle_of_empty s hempty] at hpush hret
    exact ⟨hret.trans hwait, by simpa [hempty] using hpush.length_le⟩
  case frame =>
    rw [retrieveCycle_of_frame s hwait hframe, State.retrievePop_eq hframe] at hpush hret hanswer
    exact ⟨hret, hpush, hanswer⟩

/-- Settles O47: the attempt behind what a waiting RETRIEVE has done, and ARB on OUTQ behind that. -/
theorem waitingSubmitTriesOnceACycle : Obligations.WaitingSubmitTriesOnceACycle := by
  intro s t w hsafe hrst hcalls hlock hwait hstep
  obtain rfl := eq_clock_of_step hrst hcalls hstep
  obtain ⟨-, -, -, ⟨-, hsub, -⟩, -, -⟩ := hsafe
  obtain ⟨hwaits, -⟩ := clock_waiting s s
  obtain ⟨houtq, hkept, hcycle⟩ := retrieveCycle_keeps s s
  have hanswer : (clock s s).lastReply 0x41 = (hostCycle s s).lastReply 0x41 :=
    clock_lastReply (fun p => by cases p <;> decide) s s
  have full (h : s.params.outqDepth ≤ s.outq.length) : hostCycle s s = submitWaits (retrieveCycle s s) w :=
    submitCycle_of_full _ hwait (State.outqRoom_of_le h)
  refine ⟨fun hroom => ?room, fun hfull hleft => ?forever, fun n hfull hleft hn => ?more, fun n hfull hleft hn => ?last⟩
  case room =>
    have hhost : hostCycle s s = (retrieveCycle s s).submitPush w.frame :=
      submitCycle_of_room _ hwait (State.outqRoom_of_lt hroom)
    have hqueue : (hostCycle s s).outq = s.outq ++ [w.frame] := by rw [hhost, ← houtq]; rfl
    refine ⟨by rw [hwaits, hhost]; rfl, ?_, ?_⟩
    · rw [clock_outq hsub hlock, hqueue]
      cases s.outq with
      | nil => simp
      | cons f q => simp [apply_ite (· ++ [w.frame])]
    · rw [← hcycle]
      exact hanswer.trans (hhost ▸ rfl)
  case forever => rw [hwaits, full hfull, submitWaits_of_forever _ hleft, hkept, hwait]
  case more => rw [hwaits, full hfull, submitWaits_of_more _ hleft hn]
  case last =>
    have hhost : hostCycle s s = (retrieveCycle s s).submitFull := (full hfull).trans (submitWaits_of_last _ hleft hn)
    refine ⟨by rw [hwaits, hhost]; rfl, ?_⟩
    rw [← hcycle]
    exact hanswer.trans (hhost ▸ rfl)

end Sys2Proof.Machine
end

section
/-! SUPPORT. Obligations O52 and O57, and the clock cycle of a running probe: which function of DIAG a phase runs, and
that a step is that function's alone. -/

namespace Sys2Proof.Machine

/-! ### Acceptance -/

theorem issueProbe_of_idle {s : State} (p : Probe) (start : State → State) (hcfg : s.cfgValid = true)
    (hidle : s.probeBusy = false) : issueProbe p start s = .next (start (s.acceptProbe p)) := by
  simp [issueProbe, State.probeStatus, hcfg, hidle]

theorem issueProbe_of_busy {s : State} (p : Probe) (start : State → State) (hcfg : s.cfgValid = true)
    (hbusy : s.probeBusy = true) : issueProbe p start s = .next (s.reply p.opId (.status .eBusy)) := by
  simp [issueProbe, State.probeStatus, hcfg, hbusy]

theorem probeBusy_iff (s : State) : s.probeBusy = true ↔
    s.arbState ≠ arbWaitingCode ∨ s.rxActive = true ∨ s.trig = true ∨ s.diagMode = true := by
  simp only [State.probeBusy, Bool.or_eq_true, bne_iff_ne, or_assoc]

/-- Settles O52: what a probe looks at before it is accepted. -/
theorem probesAreAcceptedWhenIdle : Obligations.ProbesAreAcceptedWhenIdle := by
  intro s hcfg
  refine ⟨fun hstate hrx htrig hmode => ?idle, fun hbusy => ?busy⟩
  case idle =>
    have hidle : s.probeBusy = false := by simp [State.probeBusy, hstate, hrx, htrig, hmode]
    exact ⟨issueProbe_of_idle .elec _ hcfg hidle, issueProbe_of_idle .timing _ hcfg hidle,
      issueProbe_of_idle .yield _ hcfg hidle⟩
  case busy =>
    have hbusy : s.probeBusy = true := (probeBusy_iff s).mpr hbusy
    exact ⟨issueProbe_of_busy .elec _ hcfg hbusy, issueProbe_of_busy .timing _ hcfg hbusy,
      issueProbe_of_busy .yield _ hcfg hbusy⟩

/-- Settles O57: the operation answers by the thresholds in their order. -/
theorem gradeFollowsTheThresholds : Obligations.GradeFollowsTheThresholds := by
  rintro w s _ rfl
  rfl

/-! ### The cycle of a running probe -/

/-- The probe `p` runs, no reception does, and nothing is asked of the block in the present cycle. -/
structure Probing (s : State) (p : Probe) : Prop where
  undisturbed : s.undisturbed
  noReception : s.rxActive = false
  running : s.diagMode = true
  op : s.diagOp = some p

/-- What DIAG needs for an access its buffer does not have: a byte of the timing probe complete at index 255
(46_diagnostic.md R278; entry 11). -/
theorem diagIndexFault_eq_false {s : State} (h : s.diagOp = some .timing → s.diagPhase = phBitHigh →
    s.atCeiling = false → s.line = false → s.diagBit = 7 → s.diagIdx ≠ 255) : diagIndexFault s = false := by
  refine Bool.eq_false_iff.mpr fun hfault => ?_
  simp only [diagIndexFault, Bool.and_eq_true, beq_iff_eq, Bool.not_eq_true', decide_eq_true_eq] at hfault
  obtain ⟨⟨⟨⟨⟨⟨-, hop⟩, hphase⟩, hceil⟩, hline⟩, hbit⟩, hidx⟩ := hfault
  exact h hop hphase hceil hline hbit ((maxFrame_le_toNat_iff _).mp hidx)

theorem atCeiling_iff (s : State) : s.atCeiling = true ↔ s.diagTmr = 0 := beq_iff_eq

/-- In a cycle of a probe nothing but time passes beside what DIAG writes. -/
theorem Probing.elapsed_eq {s : State} {p : Probe} (hs : Probing s p) : s.elapsed = endCycle s s := by
  obtain ⟨-, -, -, -, hlock⟩ := hs.undisturbed
  exact elapsed_eq_endCycle hlock

/-- A step is DIAG's alone. -/
theorem Probing.step_eq {s : State} {p : Probe} (hs : Probing s p) (hstore : diagIndexFault s = false) :
    step s = .next (endCycle s (diagStep s s)) :=
  step_probe s hs.undisturbed hs.running hs.noReception hstore

theorem Probing.step_elec {s : State} (hs : Probing s .elec) : step s = .next (endCycle s (elecStep s s)) := by
  rw [hs.step_eq (diagIndexFault_eq_false (by simp [hs.op])), diagStep, hs.op]

theorem Probing.step_timing {s : State} (hs : Probing s .timing) (hstore : diagIndexFault s = false) :
    step s = .next (endCycle s (timingStep s s)) := by
  rw [hs.step_eq hstore, diagStep, hs.op]

theorem Probing.step_yield {s : State} (hs : Probing s .yield) : step s = .next (endCycle s (yieldStep s s)) := by
  rw [hs.step_eq (diagIndexFault_eq_false (by simp [hs.op])), diagStep, hs.op]

/-! ### The phases of a probe (10_state.md R48; entry 15) -/

section
variable {s0 : State} (s : State)

theorem elecStep_fall (h : s0.diagPhase = phElecFall) : elecStep s0 s = elecFall s0 s := by rw [elecStep, h]; rfl
theorem elecStep_rise (h : s0.diagPhase = phElecRise) : elecStep s0 s = elecRise s0 s := by rw [elecStep, h]; rfl

theorem timingStep_edge (h : s0.diagPhase = phEdge) : timingStep s0 s = timingEdge s0 s := by
  rw [timingStep, h]; rfl
theorem timingStep_syncLow (h : s0.diagPhase = phSyncLow) : timingStep s0 s = timingSyncLow s0 s := by
  rw [timingStep, h]; rfl
theorem timingStep_syncHigh (h : s0.diagPhase = phSyncHigh) : timingStep s0 s = timingSyncHigh s0 s := by
  rw [timingStep, h]; rfl
theorem timingStep_bsLow (h : s0.diagPhase = phBsLow) : timingStep s0 s = timingBsLow s0 s := by
  rw [timingStep, h]; rfl
theorem timingStep_bitLow (h : s0.diagPhase = phBitLow) : timingStep s0 s = timingBitLow s0 s := by
  rw [timingStep, h]; rfl
theorem timingStep_bitHigh (h : s0.diagPhase = phBitHigh) : timingStep s0 s = timingBitHigh s0 s := by
  rw [timingStep, h]; rfl
theorem timingStep_lastGuard (h : s0.diagPhase = phLastGuard) : timingStep s0 s = timingLastGuard s0 s := by
  rw [timingStep, h]; rfl
theorem timingStep_trailing (h : s0.diagPhase = phTrailing) : timingStep s0 s = timingTrailing s0 s := by
  rw [timingStep, h]; rfl

theorem yieldStep_edge (h : s0.diagPhase = phEdge) : yieldStep s0 s = yieldEdge s0 s := by
  rw [yieldStep, h]; rfl
theorem yieldStep_syncLow (h : s0.diagPhase = phSyncLow) : yieldStep s0 s = yieldSyncLow s0 s := by
  rw [yieldStep, h]; rfl
theorem yieldStep_syncHigh (h : s0.diagPhase = phSyncHigh) : yieldStep s0 s = yieldSyncHigh s0 s := by
  rw [yieldStep, h]; rfl
theorem yieldStep_bsLow (h : s0.diagPhase = phBsLow) : yieldStep s0 s = yieldBsLow s0 s := by
  rw [yieldStep, h]; rfl
theorem yieldStep_bitLow (h : s0.diagPhase = phBitLow) : yieldStep s0 s = yieldBitLow s0 s := by
  rw [yieldStep, h]; rfl
theorem yieldStep_bitHigh (h : s0.diagPhase = phBitHigh) : yieldStep s0 s = yieldBitHigh s0 s := by
  rw [yieldStep, h]; rfl
theorem yieldStep_guard (h : s0.diagPhase = phLastGuard) : yieldStep s0 s = yieldGuard s0 s := by
  rw [yieldStep, h]; rfl
theorem yieldStep_injHigh (h : s0.diagPhase = phInjHigh) :
    yieldStep s0 s = State.injectHigh s0 s (s0.diagCnt.toNat + 1) := by
  rw [yieldStep, h]; rfl
theorem yieldStep_injLow (h : s0.diagPhase = phInjLow) : yieldStep s0 s = yieldInjLow s0 s := by
  rw [yieldStep, h]; rfl
theorem yieldStep_afterHigh (h : s0.diagPhase = phAfterHigh) : yieldStep s0 s = yieldAfterHigh s0 s := by
  rw [yieldStep, h]; rfl
theorem yieldStep_afterLow (h : s0.diagPhase = phAfterLow) : yieldStep s0 s = yieldAfterLow s0 s := by
  rw [yieldStep, h]; rfl
theorem yieldStep_toCeiling (h : s0.diagPhase = phToCeiling) :
    yieldStep s0 s = if s0.atCeiling then yieldCeiling s else State.diagStay s0 s := by
  rw [yieldStep, h]; rfl

end

end Sys2Proof.Machine
end

section
/-! SUPPORT. Obligations O55 and O56: one cycle of the timing probe. Each phase counts its run, leaves it with what the
run says written, or ends the pass. -/

namespace Sys2Proof.Machine

/-! ### Violations of a run (46_diagnostic.md R283) -/

/-- One violation added to a mask. -/
theorem getLsbD_or_viol_twoPow (a : Mask) (c : Bool) {m : Mask} {k : Nat} (hm : m = BitVec.twoPow 16 k) (hk : k < 16)
    (i : Nat) : (a ||| viol c m).getLsbD i = (a.getLsbD i || decide (i = k) && c) := by
  rw [BitVec.getLsbD_or, getLsbD_viol_twoPow c hm hk, Bool.and_comm]
  simp only [eq_comm]

/-- One bit added to a mask. -/
theorem getLsbD_or_twoPow (a : Mask) {m : Mask} {k : Nat} (hm : m = BitVec.twoPow 16 k) (hk : k < 16) (i : Nat) :
    (a ||| m).getLsbD i = (a.getLsbD i || decide (i = k)) := by
  have h := getLsbD_or_viol_twoPow a true hm hk i
  rwa [Bool.and_true] at h

theorem getLsbD_or_syncViolations (s : State) (a : Mask) (n i : Nat) : (a ||| s.syncViolations n).getLsbD i =
    (a.getLsbD i || decide (i = 1) && decide (10 * s.tpDelta.toNat < n)
      || decide (i = 2) && decide (n < s.params.syncMin.get s.modeGrade)) := by
  rw [State.syncViolations, ← BitVec.or_assoc, getLsbD_or_viol_twoPow _ _ (m := vSyncShort) (k := 2) rfl (by decide),
    getLsbD_or_viol_twoPow _ _ (m := vSyncLong) (k := 1) rfl (by decide)]
  rfl

theorem bitSyncConformant_eq_not (p : Timing) (n : Nat) :
    (!p.bitSyncConformant n) = decide (n < 8 * p.wmin ∨ 8 * p.wmax < n) := by
  rw [Timing.bitSyncConformant, Bool.not_and, ← decide_not, ← decide_not, ← Bool.decide_or]
  simp only [Nat.not_le]

/-! ### A bit and a byte (46_diagnostic.md R278, R281) -/

/-- The bit is put to its place, the bits before it kept, and the first bit of a byte clears the others. -/
theorem getLsbD_diagShiftIn (s : State) (v : Bool) (i : Nat) : (diagShiftIn s v).getLsbD i =
    if i = 7 - s.diagBit.toNat then v else decide (s.diagBit ≠ 0) && s.diagShift.getLsbD i := by
  rw [diagShiftIn, setBit_getLsbD _ _ _ _ (by omega)]
  by_cases hfirst : s.diagBit = 0#3 <;> simp [hfirst]

theorem State.recordWidth_eq (s : State) (v : Bool) : State.recordWidth s s v = { s with
    dsBit0 := if v = false ∧ s.dsBit0 = 0 then s.diagCnt else s.dsBit0
    dsBit1 := if v = true ∧ s.dsBit1 = 0 then s.diagCnt else s.dsBit1 } := by
  cases v
  · by_cases h : s.dsBit0 = 0#32 <;> simp [State.recordWidth, h]
  · by_cases h : s.dsBit1 = 0#32 <;> simp [State.recordWidth, h]

theorem timingByteDone_eq (s0 s : State) (b : Byte) :
    let m := s.diagBuf.write s0.diagIdx.toNat b
    timingByteDone s0 s b = State.diagGo s0
      { s with diagBuf := m, diagIdx := s0.diagIdx + 1, diagBit := 0, diagShift := b }
      (if s0.diagIdx.toNat + 1 < (if (m.read 0).toNat = 0 then 12 else (m.read 0).toNat) then phBitLow else phLastGuard)
      1 := by
  intro m
  rw [← frameLen_eq]
  exact (apply_ite (State.diagGo s0 _ · 1) ..).symm

/-! ### The phases before the ceiling (46_diagnostic.md R278, R281 to R284) -/

section
variable {s : State} (hs : Probing s .timing) (hceil : ¬ s.atCeiling = true)
include hs

/-- Outside a bit's high phase no byte is stored. -/
theorem Probing.step_timing_of_phase {ph : BitVec 4} (hph : s.diagPhase = ph) (hne : ph ≠ phBitHigh) :
    step s = .next (endCycle s (timingStep s s)) :=
  hs.step_timing (diagIndexFault_eq_false fun _ h => absurd (hph.symm.trans h) hne)

include hceil

theorem Probing.step_timingEdge (hph : s.diagPhase = phEdge) : step s = .next (endCycle s
    (if s.fall then State.diagGo s s phSyncLow 1 else State.diagStay s s)) := by
  rw [hs.step_timing_of_phase hph (by decide), timingStep_edge s hph, timingEdge, if_neg hceil]

theorem Probing.step_timingSyncLow (hph : s.diagPhase = phSyncLow) : step s = .next (endCycle s
    (if s.line then State.diagGo s
      { s with dsSync := s.diagCnt, diagAcc := s.diagAcc ||| s.syncViolations s.diagCnt.toNat } phSyncHigh 1
    else State.diagCount s s)) := by
  rw [hs.step_timing_of_phase hph (by decide), timingStep_syncLow s hph, timingSyncLow, if_neg hceil]

theorem Probing.step_timingSyncHigh (hph : s.diagPhase = phSyncHigh) : step s = .next (endCycle s
    (if s.line then State.diagCount s s
    else State.diagGo s { s with
      dsBsh := s.diagCnt
      diagAcc := s.diagAcc ||| viol (decide (s.diagCnt.toNat < 8 * s.tpWmin.toNat
        ∨ 8 * s.tpWmax.toNat < s.diagCnt.toNat)) vBshRange } phBsLow 1)) := by
  rw [hs.step_timing_of_phase hph (by decide), timingStep_syncHigh s hph, timingSyncHigh, if_neg hceil,
    bitSyncConformant_eq_not]
  rfl

theorem Probing.step_timingBsLow (hph : s.diagPhase = phBsLow) : step s = .next (endCycle s
    (if s.line then State.diagGo s { s with
      dsBsl := s.diagCnt
      diagAcc := s.diagAcc ||| viol (decide (s.diagCnt.toNat < 8 * s.tpWmin.toNat
        ∨ 8 * s.tpWmax.toNat < s.diagCnt.toNat)) vBslRange } phBitHigh 1
    else State.diagCount s s)) := by
  rw [hs.step_timing_of_phase hph (by decide), timingStep_bsLow s hph, timingBsLow, if_neg hceil,
    bitSyncConformant_eq_not]
  rfl

theorem Probing.step_timingBitLow (hph : s.diagPhase = phBitLow) : step s = .next (endCycle s
    (if s.line then State.diagGo s s phBitHigh 1
    else if 10 * s.tpDelta.toNat ≤ s.diagCnt.toNat then timingFault s s
    else State.diagCount s s)) := by
  rw [hs.step_timing_of_phase hph (by decide), timingStep_bitLow s hph, timingBitLow, if_neg hceil]
  rfl

theorem Probing.step_timingBitHigh_of_high (hph : s.diagPhase = phBitHigh) (hline : s.line = true) :
    step s = .next (endCycle s
      (if 25 * s.tpDelta.toNat ≤ s.diagCnt.toNat then timingFault s s else State.diagCount s s)) := by
  rw [hs.step_timing (diagIndexFault_eq_false (by simp [hline])), timingStep_bitHigh s hph, timingBitHigh,
    if_neg hceil, if_pos hline]
  rfl

/-- The end of a bit's high phase, unless its byte has no place in the buffer (entry 11). -/
theorem Probing.step_timingBitHigh_of_low (hph : s.diagPhase = phBitHigh) (hline : s.line = false)
    (hstore : diagIndexFault s = false) :
    step s = .next (endCycle s (timingBitDone s s (decide (s.tpWmax.toNat < s.diagCnt.toNat)))) := by
  rw [hs.step_timing hstore, timingStep_bitHigh s hph, timingBitHigh, if_neg hceil,
    if_neg (Bool.eq_false_iff.mp hline)]
  rfl

theorem Probing.step_timingLastGuard (hph : s.diagPhase = phLastGuard) : step s = .next (endCycle s
    (if s.line then State.diagGo s s phTrailing 1
    else if 10 * s.tpDelta.toNat ≤ s.diagCnt.toNat then timingFault s s
    else State.diagCount s s)) := by
  rw [hs.step_timing_of_phase hph (by decide), timingStep_lastGuard s hph, timingLastGuard, if_neg hceil]
  rfl

theorem Probing.step_timingTrailing (hph : s.diagPhase = phTrailing) : step s = .next (endCycle s
    (if 2 * s.tpDelta.toNat + s.tpTol.toNat < s.diagCnt.toNat then timingComplete s s false
    else if s.line then State.diagCount s s
    else timingComplete s s true)) := by
  rw [hs.step_timing_of_phase hph (by decide), timingStep_trailing s hph, timingTrailing, if_neg hceil]
  rfl

end

/-! ### The statement -/

/-- Settles O55: each phase by its run and the line. -/
theorem timingProbeClassifiesEachPhase : Obligations.TimingProbeClassifiesEachPhase := by
  intro s hu _ hrx hmode hop htmr
  have hs : Probing s .timing := ⟨hu, hrx, hmode, hop⟩
  have hceil : ¬ s.atCeiling = true := mt (atCeiling_iff s).mp htmr
  rw [hs.elapsed_eq]
  intro n D S bit placed bit0 bit1 outOfRange
  have low : s.line = false → ¬ s.line = true := Bool.eq_false_iff.mp
  have below {m : Nat} : n < m → ¬ m ≤ n := Nat.not_le.mpr
  refine ⟨fun hph hfall => ?edgeWaits, fun hph hfall => ?edgeFalls, fun hph hline => ?syncLowCounts,
    fun hph hline => ?syncLowEnds, fun hph hline => ?syncHighCounts, fun hph hline => ?syncHighEnds,
    fun hph hline => ?bsLowCounts, fun hph hline => ?bsLowEnds, fun hph hline hn => ?bitLowCounts,
    fun hph hline => ?bitLowEnds, fun hph hline hn => ?bitHighCounts, fun hph hline hbit => ?bitDone,
    fun hph hline hbit hidx hwf => ?byteDone, fun hph hline hn => ?guardCounts, fun hph hline => ?guardEnds,
    fun hph hline hn => ?trailingCounts⟩
  case edgeWaits => rw [hs.step_timingEdge hceil hph, if_neg (Bool.eq_false_iff.mp hfall)]; rfl
  case edgeFalls => rw [hs.step_timingEdge hceil hph, if_pos hfall]; rfl
  case syncLowCounts => rw [hs.step_timingSyncLow hceil hph, if_neg (low hline)]; rfl
  case syncLowEnds =>
    refine ⟨s.diagAcc ||| s.syncViolations n, ?_, getLsbD_or_syncViolations s _ n⟩
    rw [hs.step_timingSyncLow hceil hph, if_pos hline]
    rfl
  case syncHighCounts => rw [hs.step_timingSyncHigh hceil hph, if_pos hline]; rfl
  case syncHighEnds =>
    refine ⟨s.diagAcc ||| viol outOfRange vBshRange, ?_, getLsbD_or_viol_twoPow _ _ (k := 3) rfl (by decide)⟩
    rw [hs.step_timingSyncHigh hceil hph, if_neg (low hline)]
    rfl
  case bsLowCounts => rw [hs.step_timingBsLow hceil hph, if_neg (low hline)]; rfl
  case bsLowEnds =>
    refine ⟨s.diagAcc ||| viol outOfRange vBslRange, ?_, getLsbD_or_viol_twoPow _ _ (k := 4) rfl (by decide)⟩
    rw [hs.step_timingBsLow hceil hph, if_pos hline]
    rfl
  case bitLowCounts => rw [hs.step_timingBitLow hceil hph, if_neg (low hline), if_neg (below hn)]; rfl
  case bitLowEnds => rw [hs.step_timingBitLow hceil hph, if_pos hline]; rfl
  case bitHighCounts => rw [hs.step_timingBitHigh_of_high hceil hph hline, if_neg (below hn)]; rfl
  case bitDone =>
    refine ⟨diagShiftIn s bit, fun i _ => getLsbD_diagShiftIn s bit i, ?_⟩
    rw [hs.step_timingBitHigh_of_low hceil hph hline (diagIndexFault_eq_false fun _ _ _ _ h => absurd h hbit),
      timingBitDone, if_neg hbit, State.recordWidth_eq]
    rfl
  case byteDone =>
    refine ⟨diagShiftIn s bit, s.diagBuf.write s.diagIdx.toNat (diagShiftIn s bit),
      fun i _ => getLsbD_diagShiftIn s bit i, ?_, Memory.read_write_same hwf _ _,
      fun i hi => Memory.read_write_other _ _ _ _ (Ne.symm hi)⟩
    rw [hs.step_timingBitHigh_of_low hceil hph hline (diagIndexFault_eq_false fun _ _ _ _ _ => hidx),
      timingBitDone, if_pos hbit, State.recordWidth_eq, timingByteDone_eq]
    rfl
  case guardCounts => rw [hs.step_timingLastGuard hceil hph, if_neg (low hline), if_neg (below hn)]; rfl
  case guardEnds => rw [hs.step_timingLastGuard hceil hph, if_pos hline]; rfl
  case trailingCounts => rw [hs.step_timingTrailing hceil hph, if_neg (Nat.not_lt.mpr hn), if_pos hline]; rfl

/-! ### The end of a pass -/

theorem State.passGrade_eq (s : State) : s.passGrade = if s.dsBit0.toNat = 0 then 7
    else if s.dsBit0.toNat < 2 * s.params.uInf then 3 else if s.dsBit0.toNat < 3 * s.params.uInf then 2
    else if s.dsBit0.toNat < 6 * s.params.uInf then 1 else if s.dsBit0.toNat < 23 * s.params.uInf then 0 else 7 := by
  have hzero : s.dsBit0 = 0 ↔ s.dsBit0.toNat = 0 := BitVec.toNat_eq
  simp only [State.passGrade, inferGrade, hzero]

/-- What the end of a pass leaves (46_diagnostic.md R278, R280). -/
theorem Probing.endCycle_finish {s : State} (hs : Probing s .timing) (v : Mask) (st : Status) :
    endCycle s (s.finishTiming v st) = { s.elapsed with
      diagViol := v
      diagGrade := s.passGrade
      diagMode := false
      diagOp := none
      diagPhase := 0
      drvLow := false
      events := ⟨s.cycle, .diagDone .timing st⟩ :: s.events
      replies := ⟨s.cycle, 0x51, .status st⟩ :: s.replies } := by
  rw [hs.elapsed_eq]
  rfl

/-- At the ceiling every phase behind the edge ends alike (46_diagnostic.md R279). -/
theorem timingStep_ceiling {s : State} (hceil : s.atCeiling = true) (hph : s.diagPhase.toNat ∈ [2, 3, 4, 5, 6, 7, 8]) :
    timingStep s s = timingCeiling s s := by
  simp only [List.mem_cons, List.not_mem_nil, or_false] at hph
  rcases hph with h | h | h | h | h | h | h <;> rw [timingStep, h] <;> exact if_pos hceil

/-- The bytes captured are as many as their tag says. -/
theorem isFrameBytes_take (m : Memory) : isFrameBytes (m.take (frameLen (m.read 0))) = true := by
  obtain ⟨n, hn⟩ := Nat.exists_eq_add_of_le' (frameLen_pos (m.read 0))
  have hcons : m.take (frameLen (m.read 0)) = m.read 0 :: (List.range n).map fun i => m.read (i + 1) := by
    rw [hn, Memory.take, List.range_succ_eq_map, List.map_cons, List.map_map]
    rfl
  rw [hcons, isFrameBytes_cons, hn, List.length_map, List.length_range]

/-- Settles O56: each end of a pass by the step that comes to it. -/
theorem timingProbeEndsWithItsMask : Obligations.TimingProbeEndsWithItsMask := by
  intro s hu _ hrx hmode hop n D U w len captured ends
  have hs : Probing s .timing := ⟨hu, hrx, hmode, hop⟩
  have ends_of {v : Mask} {st : Status} {bits : Nat → Bool} (hstep : step s = .next (endCycle s (s.finishTiming v st)))
      (hbits : ∀ i, v.getLsbD i = bits i) : ends st bits := by
    refine ⟨v, fun i _ => hbits i, ?_⟩
    rw [hstep, hs.endCycle_finish, State.passGrade_eq]
  have low : s.line = false → ¬ s.line = true := Bool.eq_false_iff.mp
  have fault_bits (i : Nat) : (s.diagAcc ||| vBitFault).getLsbD i = (s.diagAcc.getLsbD i || decide (i = 12)) :=
    getLsbD_or_twoPow _ (m := vBitFault) (k := 12) rfl (by decide) i
  refine ⟨fun htmr hph => ?absent, fun htmr hph => ?ceiling, fun htmr hph hline hn => ?lowStuck,
    fun htmr hph hline hn => ?highStuck, fun htmr hph => ?complete⟩
  case absent =>
    have hceil : s.atCeiling = true := (atCeiling_iff s).mpr htmr
    refine ends_of (v := vSyncAbsent) ?_ fun i => by simp
    rw [hs.step_timing_of_phase hph (by decide), timingStep_edge s hph, timingEdge, if_pos hceil]
  case ceiling =>
    have hceil : s.atCeiling = true := (atCeiling_iff s).mpr htmr
    refine ends_of (v := s.diagAcc ||| vProbeTmo) ?_ (getLsbD_or_twoPow _ (m := vProbeTmo) (k := 13) rfl (by decide))
    rw [hs.step_timing (diagIndexFault_eq_false (by simp [hceil])), timingStep_ceiling hceil hph, timingCeiling]
  case lowStuck =>
    have hceil : ¬ s.atCeiling = true := mt (atCeiling_iff s).mp htmr
    refine ends_of ?_ fault_bits
    rcases hph with hph | hph
    · rw [hs.step_timingBitLow hceil hph, if_neg (low hline), if_pos hn, timingFault]
    · rw [hs.step_timingLastGuard hceil hph, if_neg (low hline), if_pos hn, timingFault]
  case highStuck =>
    have hceil : ¬ s.atCeiling = true := mt (atCeiling_iff s).mp htmr
    refine ends_of ?_ fault_bits
    rw [hs.step_timingBitHigh_of_high hceil hph hline, if_pos hn, timingFault]
  case complete =>
    have hceil : ¬ s.atCeiling = true := mt (atCeiling_iff s).mp htmr
    have hcaptured : captured = s.diagBuf.take (frameLen (s.diagBuf.read 0)) := by rw [frameLen_eq]; rfl
    have mask_bits (trailing : Bool) (i : Nat) : (s.diagAcc ||| viol trailing vTrailing ||| validate captured).getLsbD i
        = (s.diagAcc.getLsbD i || decide (i = 5) && trailing || (validate captured).getLsbD i) := by
      rw [BitVec.getLsbD_or, getLsbD_or_viol_twoPow _ _ (m := vTrailing) (k := 5) rfl (by decide)]
    refine ⟨validate captured, ?_, fun hn hline => ?_, fun hn => ?_⟩
    · rw [exec_validate, hcaptured, if_pos (isFrameBytes_take s.diagBuf)]
    · refine ends_of (v := s.diagAcc ||| viol true vTrailing ||| validate captured) ?_ fun i => ?_
      · rw [hs.step_timingTrailing hceil hph, if_neg (Nat.not_lt.mpr hn), if_neg (low hline), timingComplete, hcaptured]
      · rw [mask_bits, Bool.and_true]
    · refine ends_of (v := s.diagAcc ||| viol false vTrailing ||| validate captured) ?_ fun i => ?_
      · rw [hs.step_timingTrailing hceil hph, if_pos hn, timingComplete, hcaptured]
      · rw [mask_bits, Bool.and_false, Bool.or_false]

end Sys2Proof.Machine
end

section
/-! SUPPORT. Obligation O58: one cycle of the forced-yield probe before its injection. Each phase counts its run, leaves
it, or ends the probe with nothing observed. -/

namespace Sys2Proof.Machine

/-! ### The ceiling -/

/-- At the ceiling every phase before the injection ends alike (46_diagnostic.md R288). -/
theorem yieldStep_ceiling {s : State} (hceil : s.atCeiling = true)
    (hph : s.diagPhase.toNat ∈ [1, 2, 3, 4, 5, 6, 7, 13]) : yieldStep s s = yieldCeiling s := by
  simp only [List.mem_cons, List.not_mem_nil, or_false] at hph
  rcases hph with h | h | h | h | h | h | h | h <;> rw [yieldStep, h] <;> exact if_pos hceil

/-! ### The phases before the ceiling (46_diagnostic.md R288, R289) -/

section
variable {s : State} (hs : Probing s .yield) (hceil : ¬ s.atCeiling = true)
include hs hceil

theorem Probing.step_yieldEdge (hph : s.diagPhase = phEdge) : step s = .next (endCycle s
    (if s.fall then State.diagGo s s phSyncLow 1 else State.diagStay s s)) := by
  rw [hs.step_yield, yieldStep_edge s hph, yieldEdge, if_neg hceil]

theorem Probing.step_yieldSyncLow (hph : s.diagPhase = phSyncLow) : step s = .next (endCycle s
    (if s.line then State.diagGo s s phSyncHigh 1
    else if 10 * s.tpDelta.toNat ≤ s.diagCnt.toNat then State.diagGo s s phEdge 0
    else State.diagCount s s)) := by
  rw [hs.step_yield, yieldStep_syncLow s hph, yieldSyncLow, if_neg hceil]
  rfl

theorem Probing.step_yieldSyncHigh (hph : s.diagPhase = phSyncHigh) : step s = .next (endCycle s
    (if s.line then
      if 25 * s.tpDelta.toNat ≤ s.diagCnt.toNat then State.diagGo s s phEdge 0 else State.diagCount s s
    else if s.diagCnt.toNat < 6 * s.tpDelta.toNat then State.diagGo s s phSyncLow 1
    else State.diagGo s s phBsLow 1)) := by
  rw [hs.step_yield, yieldStep_syncHigh s hph, yieldSyncHigh, if_neg hceil]
  rfl

theorem Probing.step_yieldBsLow (hph : s.diagPhase = phBsLow) : step s = .next (endCycle s
    (if s.line then State.diagGo s { s with diagBit := 0 } phBitHigh 1
    else if 10 * s.tpDelta.toNat ≤ s.diagCnt.toNat then State.diagGo s s phEdge 0
    else State.diagCount s s)) := by
  rw [hs.step_yield, yieldStep_bsLow s hph, yieldBsLow, if_neg hceil]
  rfl

theorem Probing.step_yieldBitLow (hph : s.diagPhase = phBitLow) : step s = .next (endCycle s
    (if s.line then State.diagGo s s phBitHigh 1
    else if 10 * s.tpDelta.toNat ≤ s.diagCnt.toNat then yieldFault s
    else State.diagCount s s)) := by
  rw [hs.step_yield, yieldStep_bitLow s hph, yieldBitLow, if_neg hceil]
  rfl

theorem Probing.step_yieldBitHigh (hph : s.diagPhase = phBitHigh) : step s = .next (endCycle s
    (if s.line then
      if 25 * s.tpDelta.toNat ≤ s.diagCnt.toNat then yieldFault s else State.diagCount s s
    else State.diagGo s
      { s with diagShift := diagShiftIn s (s.timing.classify s.diagCnt.toNat), diagBit := s.diagBit + 1 }
      (if s.diagBit = 7 then phLastGuard else phBitLow) 1)) := by
  rw [hs.step_yield, yieldStep_bitHigh s hph, yieldBitHigh, if_neg hceil, apply_ite (State.diagGo s _ · 1)]
  rfl

/-- The guard of the tag byte's last bit: at its end the injection begins if there is time for it. -/
theorem Probing.step_yieldGuard (hph : s.diagPhase = phLastGuard) : step s = .next (endCycle s
    (if s.line then
      if s.diagTmr.toNat ≤ 8 * (s.tpDelta.toNat + 150) + 25 * s.tpDelta.toNat + 150 then
        State.diagGo s s phToCeiling 0
      else State.injectHigh s { s with diagIdx := 0 } 1
    else if 10 * s.tpDelta.toNat ≤ s.diagCnt.toNat then yieldFault s
    else State.diagCount s s)) := by
  rw [hs.step_yield, yieldStep_guard s hph, yieldGuard, if_neg hceil]
  rfl

theorem Probing.step_yieldToCeiling (hph : s.diagPhase = phToCeiling) :
    step s = .next (endCycle s (State.diagStay s s)) := by
  rw [hs.step_yield, yieldStep_toCeiling s hph, if_neg hceil]

end

/-! ### The statement -/

/-- Settles O58: each phase by its run and the line. -/
theorem yieldProbeLooksForATag : Obligations.YieldProbeLooksForATag := by
  intro s hu _ hrx hmode hop
  have hs : Probing s .yield := ⟨hu, hrx, hmode, hop⟩
  rw [hs.elapsed_eq]
  intro n D S goes counts noneObserved
  refine ⟨fun htmr hph => ?ceiling, fun htmr => ?_⟩
  case ceiling =>
    have hstep := hs.step_yield
    rw [yieldStep_ceiling ((atCeiling_iff s).mpr htmr) hph] at hstep
    exact hstep
  have hceil : ¬ s.atCeiling = true := mt (atCeiling_iff s).mp htmr
  have low : s.line = false → ¬ s.line = true := Bool.eq_false_iff.mp
  have below {m : Nat} : n < m → ¬ m ≤ n := Nat.not_le.mpr
  refine ⟨fun hph hfall => ?edgeFalls, fun hph hfall => ?edgeWaits, fun hph hline => ?syncLowEnds,
    fun hph hline hn => ?syncLowLong, fun hph hline hn => ?syncLowCounts, fun hph hline hn => ?syncHighLong,
    fun hph hline hn => ?syncHighCounts, fun hph hline hn => ?syncHighShort, fun hph hline hn => ?syncHighEnds,
    fun hph hline => ?bsLowEnds, fun hph hline hn => ?bsLowLong, fun hph hline hn => ?bsLowCounts,
    fun hph hline => ?bitLowEnds, fun hph hline hn => ?bitLowStuck, fun hph hline hn => ?bitLowCounts,
    fun hph hline hn => ?bitHighStuck, fun hph hline hn => ?bitHighCounts, fun hph hline => ?bitDone,
    fun hph hline hn => ?guardStuck, fun hph hline hn => ?guardCounts, fun hph hline hspan => ?noTime,
    fun hph => ?waits⟩
  case edgeFalls => exact (hs.step_yieldEdge hceil hph).trans (by rw [if_pos hfall]; rfl)
  case edgeWaits => exact (hs.step_yieldEdge hceil hph).trans (by rw [if_neg (Bool.eq_false_iff.mp hfall)]; rfl)
  case syncLowEnds => exact (hs.step_yieldSyncLow hceil hph).trans (by rw [if_pos hline]; rfl)
  case syncLowLong => exact (hs.step_yieldSyncLow hceil hph).trans (by rw [if_neg (low hline), if_pos hn]; rfl)
  case syncLowCounts =>
    exact (hs.step_yieldSyncLow hceil hph).trans (by rw [if_neg (low hline), if_neg (below hn)]; rfl)
  case syncHighLong => exact (hs.step_yieldSyncHigh hceil hph).trans (by rw [if_pos hline, if_pos hn]; rfl)
  case syncHighCounts => exact (hs.step_yieldSyncHigh hceil hph).trans (by rw [if_pos hline, if_neg (below hn)]; rfl)
  case syncHighShort => exact (hs.step_yieldSyncHigh hceil hph).trans (by rw [if_neg (low hline), if_pos hn]; rfl)
  case syncHighEnds =>
    exact (hs.step_yieldSyncHigh hceil hph).trans (by rw [if_neg (low hline), if_neg (Nat.not_lt.mpr hn)]; rfl)
  case bsLowEnds => exact (hs.step_yieldBsLow hceil hph).trans (by rw [if_pos hline]; rfl)
  case bsLowLong => exact (hs.step_yieldBsLow hceil hph).trans (by rw [if_neg (low hline), if_pos hn]; rfl)
  case bsLowCounts => exact (hs.step_yieldBsLow hceil hph).trans (by rw [if_neg (low hline), if_neg (below hn)]; rfl)
  case bitLowEnds => exact (hs.step_yieldBitLow hceil hph).trans (by rw [if_pos hline]; rfl)
  case bitLowStuck => exact (hs.step_yieldBitLow hceil hph).trans (by rw [if_neg (low hline), if_pos hn]; rfl)
  case bitLowCounts => exact (hs.step_yieldBitLow hceil hph).trans (by rw [if_neg (low hline), if_neg (below hn)]; rfl)
  case bitHighStuck => exact (hs.step_yieldBitHigh hceil hph).trans (by rw [if_pos hline, if_pos hn]; rfl)
  case bitHighCounts => exact (hs.step_yieldBitHigh hceil hph).trans (by rw [if_pos hline, if_neg (below hn)]; rfl)
  case bitDone =>
    refine ⟨diagShiftIn s (s.timing.classify n), ?_⟩
    rw [hs.step_yieldBitHigh hceil hph, if_neg (low hline)]
    rfl
  case guardStuck => exact (hs.step_yieldGuard hceil hph).trans (by rw [if_neg (low hline), if_pos hn]; rfl)
  case guardCounts => exact (hs.step_yieldGuard hceil hph).trans (by rw [if_neg (low hline), if_neg (below hn)]; rfl)
  case noTime => exact (hs.step_yieldGuard hceil hph).trans (by rw [if_pos hline, if_pos hspan]; rfl)
  case waits => exact hs.step_yieldToCeiling hceil hph

end Sys2Proof.Machine
end

section
/-! SUPPORT. Obligations O53, O54, O59 and O60: the clock cycles of a probe, one after another. In every cycle the state
is that of the first one some cycles later, but for DIAG's registers and DRV_LOW; one cycle less is left to the
ceiling. -/

namespace Sys2Proof.Machine

/-! ### The state while a probe runs -/

/-- What DIAG writes from one cycle of a probe to the next, beside DIAG_TMR: DIAG_PHASE, DIAG_CNT, DIAG_IDX, `f` of
46_diagnostic.md R271, and DRV_LOW. -/
structure ProbeRegs where
  phase : BitVec 4
  cnt : Nat
  idx : Byte
  fall : Count
  low : Bool

/-- The state in a cycle of a probe, from the cycle `s` on, after the values `w` of DRV_LOW. -/
def State.probing (s : State) (w : List Bool) (r : ProbeRegs) : State :=
  { s.passWave w with
    diagPhase := r.phase
    diagCnt := count r.cnt
    diagTmr := s.diagTmr - count w.length
    diagIdx := r.idx
    diagFall := r.fall
    drvLow := r.low }

/-- The first cycle. -/
theorem State.probing_self {s : State} {r : ProbeRegs} (hr : r = ⟨s.diagPhase, r.cnt, s.diagIdx, s.diagFall, s.drvLow⟩)
    (hcnt : s.diagCnt = count r.cnt) : s.probing [] r = s := by
  have htmr : s.diagTmr - count ([] : List Bool).length = s.diagTmr := BitVec.sub_zero _
  rw [State.probing, htmr, ← hcnt, hr]
  rfl

theorem State.probing_eq (s : State) (w : List Bool) (r : ProbeRegs) : ∃ prev, s.probing w r = { s with
    linePrev := prev
    cycle := s.cycle + w.length
    inputs := s.inputs.drop w.length
    drvTrace := w.reverse ++ s.drvTrace
    diagPhase := r.phase
    diagCnt := count r.cnt
    diagTmr := s.diagTmr - count w.length
    diagIdx := r.idx
    diagFall := r.fall
    drvLow := r.low } := by
  obtain ⟨prev, hwave⟩ := s.passWave_eq w
  exact ⟨prev, by rw [State.probing, hwave]⟩

theorem State.probing_params (s : State) (w : List Bool) (r : ProbeRegs) : (s.probing w r).params = s.params := by
  simp [State.probing]

theorem State.probing_timing (s : State) (w : List Bool) (r : ProbeRegs) : (s.probing w r).timing = s.timing := by
  simp [State.probing, State.timing]

/-- The line in a cycle of the probe. -/
theorem State.probing_line (s : State) (w : List Bool) (r : ProbeRegs) :
    (s.probing w r).line = (s.inputAt (s.cycle + w.length)).line.level r.low := by
  simp [State.probing, State.line, State.inputNow, State.inputAt, State.idleIn, List.headD_eq_head?_getD]

/-- A ceiling that many cycles after the first one. -/
theorem State.probing_atCeiling {s : State} {T : Nat} (htmr : s.diagTmr = count T) (hT : T < 2 ^ 32) {w : List Bool}
    (hw : w.length ≤ T) (r : ProbeRegs) : (s.probing w r).atCeiling = true ↔ w.length = T := by
  have hw' : w.length < 2 ^ 32 := Nat.lt_of_le_of_lt hw hT
  rw [atCeiling_iff]
  show s.diagTmr - count w.length = 0#32 ↔ _
  rw [htmr, BitVec.sub_eq_iff_eq_add, BitVec.zero_add, count_inj hT hw', eq_comm]

/-! ### The cycles of a probe -/

/-- One cycle less is left to the ceiling. -/
theorem sub_count_succ (x : Count) (n : Nat) : x - count (n + 1) = x - count n - 1 := by
  rw [← count_succ]
  bv_omega

theorem Probing.unlocked {s : State} {p : Probe} (hs : Probing s p) : s.hostLock = false := by
  obtain ⟨-, -, -, -, hlock⟩ := hs.undisturbed
  exact hlock

/-- The end of a cycle without HOSTLOCK. -/
theorem endCycle_of_unlocked (s : State) {t : State} (h : t.hostLock = false) : endCycle s t = { t with
    linePrev := s.line
    cycle := s.cycle + 1
    inputs := s.inputs.tail
    drvTrace := s.drvLow :: s.drvTrace } := by
  rw [endCycle_eq, ← h]

/-- Besides, no cycle to come has a reset. -/
structure Probes (s : State) (p : Probe) : Prop extends Probing s p where
  noReset : ∀ c ∈ s.inputs, c.rst = false

section
variable {s : State} {p : Probe} (hs : Probes s p)
include hs

theorem Probes.probing (w : List Bool) (r : ProbeRegs) : Probing (s.probing w r) p := by
  obtain ⟨-, hcalls, hsub, hret, hlock⟩ := hs.undisturbed
  obtain ⟨prev, hstate⟩ := s.probing_eq w r
  rw [hstate]
  exact ⟨⟨inputNow_rst_of_inputs fun c hc => hs.noReset c (List.mem_of_mem_drop hc), hcalls, hsub, hret, hlock⟩,
    hs.noReception, hs.running, hs.op⟩

/-- The end of a cycle in which DIAG goes on is the probe one value of DRV_LOW later. -/
theorem Probes.endCycle_probing (w : List Bool) (r r' : ProbeRegs) :
    endCycle (s.probing w r) (State.diagStay (s.probing w r) (s.probing w r')) = s.probing (w ++ [r.low]) r' := by
  obtain ⟨-, -, -, -, hlock⟩ := hs.undisturbed
  have hlock : (s.passWave w).hostLock = false := by simpa using hlock
  have htmr : s.diagTmr - count (w ++ [r.low]).length = s.diagTmr - count w.length - 1 := by
    rw [List.length_append, List.length_singleton, sub_count_succ]
  rw [endCycle_eq, State.probing, State.probing, State.probing, State.passWave_append, ← hlock, htmr]
  rfl

end

/-- What DIAG writes in a cycle in which it goes on is there in the next one. -/
theorem Probes.step_writes {s t : State} {p : Probe} (hs : Probes s p) {w : List Bool} {r r' : ProbeRegs}
    (hstep : step (s.probing w r) = .next (endCycle (s.probing w r) t))
    (h : t = State.diagStay (s.probing w r) (s.probing w r')) :
    step (s.probing w r) = .next (s.probing (w ++ [r.low]) r') := by
  rw [hstep, h, hs.endCycle_probing]

/-! ### Runs of cycles -/

theorem State.probing_cycle (s : State) (w : List Bool) (r : ProbeRegs) :
    (s.probing w r).cycle = s.cycle + w.length := by
  simp [State.probing]

theorem reaches_probing_next {s : State} {w : List Bool} {d : Bool} {r r' : ProbeRegs}
    (h : step (s.probing w r) = .next (s.probing (w ++ [d]) r')) :
    Reaches (s.probing w r) (s.probing (w ++ [d]) r') := by
  refine .of_step h ?_
  rw [State.probing_cycle, State.probing_cycle, List.length_append, List.length_singleton, Nat.add_assoc]

/-- Cycles with the same value of DRV_LOW. -/
theorem reaches_probing {s : State} {w : List Bool} {low : Bool} {r : Nat → ProbeRegs} {n : Nat}
    (h : ∀ k, k < n → step (s.probing (w ++ List.replicate k low) (r k))
      = .next (s.probing (w ++ List.replicate k low ++ [low]) (r (k + 1)))) :
    Reaches (s.probing w (r 0)) (s.probing (w ++ List.replicate n low) (r n)) := by
  induction n with
  | zero =>
    rw [List.replicate_zero, List.append_nil]
    exact .refl _
  | succ n ih =>
    rw [List.replicate_succ', ← List.append_assoc]
    exact (ih fun k hk => h k (Nat.lt_succ_of_lt hk)).trans (reaches_probing_next (h n (Nat.lt_succ_self n)))

/-- The clock tells how many steps were made. -/
theorem Reaches.stepN_eq {s t : State} (h : Reaches s t) {n : Nat} (hn : t.cycle = s.cycle + n) :
    stepN n s = some t := by
  obtain ⟨m, hm, hsteps⟩ := h
  obtain rfl : m = n := Nat.add_left_cancel (hm.symm.trans hn)
  exact hsteps

end Sys2Proof.Machine
end

section
/-! SUPPORT. Obligation O53: DIAG_ELEC, cycle by cycle. The line is driven until it falls and then released until it
rises, or the ceiling comes first. -/

namespace Sys2Proof.Machine

/-- DIAG's registers while DIAG_ELEC drives, `k` cycles counted (46_diagnostic.md R271). -/
def State.elecDriving (s : State) (k : Nat) (low : Bool) : ProbeRegs := ⟨phElecFall, k, s.diagIdx, s.diagFall, low⟩

/-- DIAG's registers after the fall, which took `f` cycles, `k` cycles of release counted (46_diagnostic.md R271). -/
def State.elecReleased (s : State) (f k : Nat) : ProbeRegs := ⟨phElecRise, k, s.diagIdx, count f, false⟩

/-- DIAG_ELEC in its first cycle, `T` cycles before its ceiling. -/
structure ElecRuns (s : State) (T : Nat) : Prop extends Probes s .elec where
  phase : s.diagPhase = phElecFall
  cnt : s.diagCnt = 0
  driven : s.drvLow = true
  ceiling : T = s.params.tmoElec
  tmr : s.diagTmr = count T
  fits : T < 2 ^ 32
  pos : 1 ≤ T

section
variable {s : State} {T : Nat} (hs : ElecRuns s T)
include hs

theorem ElecRuns.start : s.probing [] (s.elecDriving 0 true) = s :=
  State.probing_self (by rw [State.elecDriving, hs.phase, hs.driven]) hs.cnt

theorem ElecRuns.not_atCeiling {w : List Bool} (hw : w.length < T) (r : ProbeRegs) :
    ¬ (s.probing w r).atCeiling = true :=
  mt (State.probing_atCeiling hs.tmr hs.fits (Nat.le_of_lt hw) r).mp (Nat.ne_of_lt hw)

theorem ElecRuns.atCeiling {w : List Bool} (hw : w.length = T) (r : ProbeRegs) : (s.probing w r).atCeiling = true :=
  (State.probing_atCeiling hs.tmr hs.fits (Nat.le_of_eq hw) r).mpr hw

/-! ### One cycle -/

/-- The line reads high while it is driven: in the last cycle before the ceiling it is released
(46_diagnostic.md R271). -/
theorem ElecRuns.step_high {w : List Bool} (hw : w.length < T)
    (hline : (s.inputAt (s.cycle + w.length)).line.level true = true) :
    step (s.probing w (s.elecDriving w.length true))
      = .next (s.probing (w ++ [true]) (s.elecDriving (w.length + 1) (decide (w.length + 1 < T)))) := by
  have hlast : (s.probing w (s.elecDriving w.length true)).diagTmr = 1 ↔ w.length + 1 = T := by
    show s.diagTmr - count w.length = 1 ↔ _
    rw [hs.tmr, BitVec.sub_eq_iff_eq_add, BitVec.add_comm, count_succ, count_inj hs.fits (Nat.lt_of_le_of_lt hw hs.fits), eq_comm]
  refine hs.step_writes (hs.probing w (s.elecDriving w.length true)).step_elec ?_
  rw [elecStep_fall _ rfl, elecFall, if_neg (hs.not_atCeiling hw _), if_pos ((s.probing_line w _).trans hline)]
  rcases Nat.lt_or_eq_of_le hw with hmore | hend
  · rw [if_neg (mt hlast.mp (Nat.ne_of_lt hmore)), decide_eq_true hmore]
    simp only [State.diagCount, State.diagStay, State.probing, State.elecDriving, count_succ]
  · rw [if_pos (hlast.mpr hend), decide_eq_false (Nat.not_lt.mpr (Nat.le_of_eq hend.symm))]
    simp only [State.diagCount, State.diagStay, State.probing, State.elecDriving, count_succ]

theorem ElecRuns.step_falls {w : List Bool} (hw : w.length < T)
    (hline : (s.inputAt (s.cycle + w.length)).line.level true = false) :
    step (s.probing w (s.elecDriving w.length true))
      = .next (s.probing (w ++ [true]) (s.elecReleased w.length 0)) := by
  have hlow := (s.probing_line w (s.elecDriving w.length true)).trans hline
  refine hs.step_writes (hs.probing w (s.elecDriving w.length true)).step_elec ?_
  rw [elecStep_fall _ rfl, elecFall, if_neg (hs.not_atCeiling hw _), if_neg (Bool.eq_false_iff.mp hlow)]
  rfl

theorem ElecRuns.step_low {w : List Bool} (hw : w.length < T) (hline : s.releasedAt (s.cycle + w.length) = false)
    (f k : Nat) :
    step (s.probing w (s.elecReleased f k)) = .next (s.probing (w ++ [false]) (s.elecReleased f (k + 1))) := by
  have hlow := (s.probing_line w (s.elecReleased f k)).trans hline
  refine hs.step_writes (hs.probing w (s.elecReleased f k)).step_elec ?_
  rw [elecStep_rise _ rfl, elecRise, if_neg (hs.not_atCeiling hw _), if_neg (Bool.eq_false_iff.mp hlow)]
  simp only [State.diagCount, State.diagStay, State.probing, State.elecReleased, count_succ]

theorem ElecRuns.elecStep_rises {w : List Bool} (hw : w.length < T) (hline : s.releasedAt (s.cycle + w.length) = true)
    (f k : Nat) :
    let v := s.probing w (s.elecReleased f k)
    elecStep v v = v.endElec (count f) (count k) (count (f + k)) false := by
  intro v
  have hhigh : v.line = true := (s.probing_line w _).trans hline
  rw [elecStep_rise _ rfl, elecRise, if_neg (hs.not_atCeiling hw _), if_pos hhigh]
  exact congrArg (v.endElec _ _ · _) (BitVec.ofNat_add ..).symm

theorem ElecRuns.elecStep_ceiling_driving {w : List Bool} (hw : w.length = T) (k : Nat) (low : Bool) :
    let v := s.probing w (s.elecDriving k low)
    elecStep v v = v.endElec (count T) 0 0 true := by
  intro v
  have hT : v.params.tmoElec = T := by rw [s.probing_params, hs.ceiling]
  rw [elecStep_fall _ rfl, elecFall, if_pos (hs.atCeiling hw _), hT]

theorem ElecRuns.elecStep_ceiling_released {w : List Bool} (hw : w.length = T) (f k : Nat) :
    let v := s.probing w (s.elecReleased f k)
    elecStep v v = v.endElec (count f) (count k) 0 true := by
  intro v
  rw [elecStep_rise _ rfl, elecRise, if_pos (hs.atCeiling hw _)]
  rfl

/-! ### The cycles of a measurement -/

/-- The line is driven as long as it reads high. -/
theorem ElecRuns.reaches_driving {n : Nat} (hn : n ≤ T)
    (hline : ∀ k, k < n → (s.inputAt (s.cycle + k)).line.level true = true) :
    Reaches s (s.probing (List.replicate n true) (s.elecDriving n (decide (n < T)))) := by
  have hrun := reaches_probing (s := s) (w := []) (low := true) (n := n)
    (r := fun k => s.elecDriving k (decide (k < T))) fun k hk => by
      have hkT : k < T := Nat.lt_of_lt_of_le hk hn
      have hw : (List.replicate k true).length = k := List.length_replicate
      have hstep := hs.step_high (w := List.replicate k true) (by rwa [hw]) (by rw [hw]; exact hline k hk)
      rw [hw] at hstep
      rwa [List.nil_append, decide_eq_true hkT]
  rwa [decide_eq_true (show 0 < T from hs.pos), hs.start] at hrun

/-- After `f` high cycles the line falls, and it is released as long as it reads low. -/
theorem ElecRuns.reaches_released {f n : Nat} (hn : f + 1 + n ≤ T)
    (hhigh : ∀ k, k < f → (s.inputAt (s.cycle + k)).line.level true = true)
    (hfall : (s.inputAt (s.cycle + f)).line.level true = false)
    (hlow : ∀ k, k < n → s.releasedAt (s.cycle + f + 1 + k) = false) :
    Reaches s (s.probing (List.replicate (f + 1) true ++ List.replicate n false) (s.elecReleased f n)) := by
  have hf : f < T := by omega
  have hw : (List.replicate f true).length = f := List.length_replicate
  have hdrive := hs.reaches_driving (Nat.le_of_lt hf) hhigh
  have hstep := hs.step_falls (w := List.replicate f true) (by rwa [hw]) (by rwa [hw])
  rw [hw] at hstep
  rw [decide_eq_true hf] at hdrive
  refine (hdrive.trans (reaches_probing_next hstep)).trans ?_
  rw [← List.replicate_succ']
  refine reaches_probing (r := fun k => s.elecReleased f k) fun k hk => hs.step_low ?_ ?_ f k
  · simp only [List.length_append, List.length_replicate]; omega
  · simpa only [List.length_append, List.length_replicate, Nat.add_assoc] using hlow k hk

/-! ### The end -/

/-- What the end of DIAG_ELEC leaves (46_diagnostic.md R270, R271, R273). -/
theorem ElecRuns.ended (w : List Bool) {r : ProbeRegs} (hidx : r.idx = s.diagIdx)
    (fall rise period : Count) (tmo : Bool) :
    let v := s.probing w r
    let t := endCycle v (v.endElec fall rise period tmo)
    let st : Status := if tmo then .eDiagTmo else .ok
    t.replies = ⟨s.cycle + w.length, 0x50, .status st⟩ :: s.replies
    ∧ t.events = ⟨s.cycle + w.length, .diagDone .elec st⟩ :: s.events
    ∧ t.drvTrace = r.low :: (w.reverse ++ s.drvTrace)
    ∧ t = { s with
      deFall := fall, deRise := rise, dePeriod := period, deStatus := tmo
      diagMode := false, diagOp := t.diagOp, diagPhase := t.diagPhase, diagCnt := t.diagCnt, diagTmr := t.diagTmr
      diagFall := t.diagFall, drvLow := false, linePrev := t.linePrev, cycle := s.cycle + w.length + 1
      inputs := t.inputs, drvTrace := t.drvTrace, events := t.events, replies := t.replies } := by
  obtain ⟨prev, hv⟩ := s.probing_eq w r
  intro v t st
  have hlock : v.hostLock = false := (hs.probing w r).unlocked
  have ht : t = _ := endCycle_of_unlocked v hlock
  have hv : v = _ := hv
  rw [ht, hv, hidx]
  exact ⟨rfl, rfl, rfl, rfl⟩

end

/-- Settles O53: the drive, the release and the end, each by the line. -/
theorem elecProbeMeasuresTheEdges : Obligations.ElecProbeMeasuresTheEdges := by
  intro s T hu hrst _ hrx hmode hop hphase hcnt hdrv hT htmr hfits hpos ends
  have hs : ElecRuns s T := ⟨⟨⟨hu, hrx, hmode, hop⟩, hrst⟩, hphase, hcnt, hdrv, hT, htmr, hfits, hpos⟩
  have toNat_of {n : Nat} (hn : n ≤ T) : (count n).toNat = n := count_toNat (Nat.lt_of_le_of_lt hn hfits)
  have ends_of {w : List Bool} {r : ProbeRegs} {fall rise period : Count} {tmo : Bool} (hidx : r.idx = s.diagIdx)
      (hreach : Reaches s (s.probing w r))
      (hstep : elecStep (s.probing w r) (s.probing w r) = (s.probing w r).endElec fall rise period tmo) :
      ∃ t, stepN (w.length + 1) s = some t
        ∧ ends (s.cycle + w.length) fall.toNat rise.toNat period.toNat tmo (if tmo then .eDiagTmo else .ok) t
        ∧ t.drvTrace = r.low :: (w.reverse ++ s.drvTrace) := by
    have hlast := (hs.probing w r).step_elec
    rw [hstep] at hlast
    obtain ⟨hreplies, hevents, hdriven, hframe⟩ := hs.ended w hidx fall rise period tmo
    exact ⟨_, (hreach.trans (.of_step hlast rfl)).stepN_eq (congrArg State.cycle hframe),
      ⟨rfl, rfl, rfl, rfl, rfl, rfl, hreplies, hevents, hframe⟩, hdriven⟩
  refine ⟨fun f w hends hhigh hfall hlow hrise => ?measured, fun hhigh => ?stuckHigh,
    fun f hf hhigh hfall hlow => ?stuckLow⟩
  case measured =>
    have hlen : (List.replicate (f + 1) true ++ List.replicate w false).length = f + 1 + w := by simp
    have hreach := hs.reaches_released (Nat.le_of_lt hends) hhigh hfall hlow
    have hend := hs.elecStep_rises (w := List.replicate (f + 1) true ++ List.replicate w false) (by rwa [hlen])
      (by rwa [hlen, ← Nat.add_assoc, ← Nat.add_assoc]) f w
    obtain ⟨t, hsteps, hended, hdriven⟩ := ends_of rfl hreach hend
    rw [hlen, toNat_of (by omega), toNat_of (by omega), toNat_of (by omega), ← Nat.add_assoc, ← Nat.add_assoc] at hended
    rw [hlen, show f + 1 + w + 1 = f + w + 2 by omega] at hsteps
    refine ⟨t, hsteps, hended, hdriven.trans ?_⟩
    rw [List.reverse_append, List.reverse_replicate, List.reverse_replicate, List.append_assoc]
    rfl
  case stuckHigh =>
    have hlen : (List.replicate T true).length = T := List.length_replicate
    obtain ⟨t, hsteps, hended, hdriven⟩ := ends_of rfl (hs.reaches_driving (Nat.le_refl T) hhigh)
      (hs.elecStep_ceiling_driving hlen T _)
    rw [hlen] at hsteps
    rw [hlen, toNat_of (Nat.le_refl T)] at hended
    refine ⟨t, hsteps, hended, hdriven.trans ?_⟩
    rw [decide_eq_false (Nat.lt_irrefl T), List.reverse_replicate]
    rfl
  case stuckLow =>
    obtain ⟨n, rfl⟩ := Nat.exists_eq_add_of_le hf
    have hlen : (List.replicate (f + 1) true ++ List.replicate n false).length = f + 1 + n := by simp
    have hreach := hs.reaches_released (Nat.le_refl _) hhigh hfall fun k hk => by
      rw [Nat.add_assoc, Nat.add_assoc]
      exact hlow _ (by omega) (by omega)
    obtain ⟨t, hsteps, hended, hdriven⟩ := ends_of rfl hreach (hs.elecStep_ceiling_released hlen f n)
    rw [hlen] at hsteps
    rw [hlen, toNat_of (Nat.le_of_lt hf), toNat_of (Nat.le_add_left n _)] at hended
    rw [Nat.add_sub_cancel_left, show f + 1 + n - f = n + 1 by omega]
    refine ⟨t, hsteps, hended, hdriven.trans ?_⟩
    rw [List.reverse_append, List.reverse_replicate, List.reverse_replicate, List.append_assoc]
    rfl

end Sys2Proof.Machine
end

section
/-! SUPPORT. Obligation O54: a listening probe on a line without an edge waits in its phase until the ceiling. -/

namespace Sys2Proof.Machine

/-- LINE_PREV after `n` cycles in which DRV_LOW kept its value (10_state.md R30). -/
theorem State.passIdle_linePrev (s : State) (n : Nat) : (s.passIdle n).linePrev =
    if n = 0 then s.linePrev else s.lineAt (s.cycle + n - 1) := by
  cases n with
  | zero => rfl
  | succ n =>
    have hdrv : (s.passIdle n).drvLow = s.drvLow := by simp
    rw [State.passIdle_succ, ← hdrv, if_neg (Nat.succ_ne_zero n), ← Nat.add_assoc, Nat.add_sub_cancel,
      ← s.line_passIdle]
    rfl

/-- DIAG's registers while a probe looks for an edge (46_diagnostic.md R279, R289). -/
def State.listening (s : State) : ProbeRegs := ⟨phEdge, s.diagCnt.toNat, s.diagIdx, s.diagFall, false⟩

/-- A probe that looks for an edge, `T` cycles before its ceiling, on a line without one. -/
structure Listens (s : State) (p : Probe) (T : Nat) : Prop extends Probes s p where
  phase : s.diagPhase = phEdge
  released : s.drvLow = false
  tmr : s.diagTmr = count T
  fits : T < 2 ^ 32
  quiet : ∀ k, k < T → s.lineAt (s.cycle + k) = false →
    (if k = 0 then s.linePrev else s.lineAt (s.cycle + k - 1)) = false

/-- Both listening probes wait where there is neither an edge nor the ceiling. -/
theorem diagStep_waits {s : State} {p : Probe} (hop : s.diagOp = some p) (hp : p ≠ .elec) (hph : s.diagPhase = phEdge)
    (hceil : ¬ s.atCeiling = true) (hfall : ¬ s.fall = true) : diagStep s s = State.diagStay s s := by
  rw [diagStep, hop]
  cases p with
  | elec => exact absurd rfl hp
  | timing => exact (timingStep_edge s hph).trans ((if_neg hceil).trans (if_neg hfall))
  | yield => exact (yieldStep_edge s hph).trans ((if_neg hceil).trans (if_neg hfall))

section
variable {s : State} {p : Probe} {T : Nat} (hs : Listens s p T)
include hs

theorem Listens.start : s.probing [] s.listening = s :=
  State.probing_self (by rw [State.listening, hs.phase, hs.released]) (by simp [State.listening, count])

/-- Before the ceiling there is neither an edge nor the ceiling. -/
theorem Listens.waits {k : Nat} (hk : k < T) :
    let v := s.probing (List.replicate k false) s.listening
    ¬ v.atCeiling = true ∧ ¬ v.fall = true := by
  have hw : (List.replicate k false).length = k := List.length_replicate
  refine ⟨mt (State.probing_atCeiling hs.tmr hs.fits (by rw [hw]; exact Nat.le_of_lt hk) _).mp (by omega), ?_⟩
  have hidle : s.passWave (List.replicate k false) = s.passIdle k := by rw [State.passIdle, hs.released]
  have hline : (s.probing (List.replicate k false) s.listening).line = s.lineAt (s.cycle + k) := by
    rw [State.probing_line, hw, State.lineAt, hs.released]
    rfl
  have hprev : (s.probing (List.replicate k false) s.listening).linePrev
      = if k = 0 then s.linePrev else s.lineAt (s.cycle + k - 1) := by
    rw [← State.passIdle_linePrev, ← hidle]
    rfl
  rw [State.fall, hline, hprev]
  have hquiet := hs.quiet k hk
  cases hlow : s.lineAt (s.cycle + k)
  · simp [hquiet hlow]
  · simp

theorem Listens.reaches_ceiling (hp : p ≠ .elec) :
    Reaches s (s.probing (List.replicate T false) s.listening) := by
  have hrun := reaches_probing (s := s) (w := []) (low := false) (r := fun _ => s.listening) (n := T) fun k hk => by
    obtain ⟨hceil, hfall⟩ := hs.waits hk
    have hv := hs.probing (List.replicate k false) s.listening
    exact hs.step_writes (hv.step_eq (diagIndexFault_eq_false fun _ h => absurd h (by decide : phEdge ≠ phBitHigh)))
      (diagStep_waits hv.op hp rfl hceil hfall)
  rwa [hs.start] at hrun

/-- The cycle of the ceiling is `T` cycles after the first one, with nothing but time passed till then. -/
theorem Listens.stepN_ceiling (hp : p ≠ .elec) : ∃ v, v.atCeiling = true ∧ Probing v p ∧ v.diagPhase = phEdge
    ∧ stepN (T + 1) s = some (endCycle v (diagStep v v))
    ∧ v.cycle = s.cycle + T ∧ v.replies = s.replies ∧ v.dsBit0 = s.dsBit0 ∧ v.view = s.view := by
  have hw : (List.replicate T false).length = T := List.length_replicate
  obtain ⟨prev, hv⟩ := s.probing_eq (List.replicate T false) s.listening
  have hprobing := hs.probing (List.replicate T false) s.listening
  have hceil := (State.probing_atCeiling hs.tmr hs.fits (Nat.le_of_eq hw) s.listening).mpr hw
  have hstep := hprobing.step_eq (diagIndexFault_eq_false (by simp [hceil]))
  have hcycle := s.probing_cycle (List.replicate T false) s.listening
  rw [hw] at hcycle
  refine ⟨_, hceil, hprobing, rfl, ((hs.reaches_ceiling hp).trans (.of_step hstep rfl)).stepN_eq ?_, hcycle, ?_⟩
  · exact congrArg (· + 1) hcycle
  · rw [hv]
    exact ⟨rfl, rfl, rfl⟩

end

/-- Settles O54: each of the two at its ceiling. -/
theorem probesTimeOutOnAQuietLine : Obligations.ProbesTimeOutOnAQuietLine := by
  intro s T hu hrst _ hrx hmode hphase hdrv htmr hfits hbit0 hquiet
  have hs {p : Probe} (hop : s.diagOp = some p) : Listens s p T :=
    ⟨⟨⟨hu, hrx, hmode, hop⟩, hrst⟩, hphase, hdrv, htmr, hfits, hquiet⟩
  refine ⟨fun hop => ?timing, fun hop => ?yield⟩
  case timing =>
    obtain ⟨v, hceil, hv, hph, hsteps, hcycle, hreplies, hwidth, hview⟩ := (hs hop).stepN_ceiling (by decide)
    have hend : diagStep v v = v.finishTiming vSyncAbsent .eDiagTmo := by
      rw [diagStep, hv.op]
      exact (timingStep_edge v hph).trans (if_pos hceil)
    have hgrade : v.passGrade = 7 := if_pos (hwidth.trans hbit0)
    rw [hend] at hsteps
    refine ⟨_, hsteps, rfl, hgrade, rfl, ?_, ?_⟩
    · rw [← hcycle, ← hreplies]
      rfl
    · rw [← hview, ← hgrade]
      rfl
  case yield =>
    obtain ⟨v, hceil, hv, hph, hsteps, hcycle, hreplies, -, hview⟩ := (hs hop).stepN_ceiling (by decide)
    have hend : diagStep v v = v.endYield yieldNone .eDiagTmo := by
      rw [diagStep, hv.op]
      exact (yieldStep_edge v hph).trans (if_pos hceil)
    rw [hend] at hsteps
    refine ⟨_, hsteps, rfl, rfl, ?_, ?_⟩
    · rw [← hcycle, ← hreplies]
      rfl
    · rw [← hview]
      rfl

end Sys2Proof.Machine
end

section
/-! SUPPORT. Obligation O60: the forced-yield probe after its injection. The line stays high too long, or falls
for a guard's length or for more. -/

namespace Sys2Proof.Machine

/-- DIAG's registers in the `k`-th cycle of the high run, or of the low run, after the injection
(46_diagnostic.md R288). -/
def State.observing (s : State) (phase : BitVec 4) (k : Nat) : ProbeRegs := ⟨phase, k, s.diagIdx, s.diagFall, false⟩

/-- The forced-yield probe in its first released cycle after the injection. -/
structure Observes (s : State) : Prop extends Probes s .yield where
  phase : s.diagPhase = phAfterHigh
  cnt : s.diagCnt = 0
  released : s.drvLow = false
  fits : 25 * s.tpDelta.toNat < 2 ^ 32

section
variable {s : State} (hs : Observes s)
include hs

theorem Observes.start : s.probing [] (s.observing phAfterHigh 0) = s :=
  State.probing_self (by rw [State.observing, hs.phase, hs.released]) hs.cnt

theorem Observes.line_eq {w : List Bool} {lvl : Bool} (hline : s.lineAt (s.cycle + w.length) = lvl) (phase : BitVec 4)
    (k : Nat) : (s.probing w (s.observing phase k)).line = lvl := by
  rw [State.probing_line, ← hline, State.lineAt, hs.released]
  rfl

theorem Observes.highTmo_le_iff (w : List Bool) (phase : BitVec 4) {k : Nat} (hk : k ≤ 25 * s.tpDelta.toNat) :
    (s.probing w (s.observing phase k)).timing.highTmo ≤ (s.probing w (s.observing phase k)).diagCnt.toNat
      ↔ 25 * s.tpDelta.toNat ≤ k := by
  show _ ≤ (count k).toNat ↔ _
  rw [s.probing_timing, count_toNat (Nat.lt_of_le_of_lt hk hs.fits)]
  rfl

/-! ### One cycle (46_diagnostic.md R288, R292) -/

section
variable {w : List Bool} {k : Nat}

theorem Observes.step_high (hline : s.lineAt (s.cycle + w.length) = true) (hk : k < 25 * s.tpDelta.toNat) :
    step (s.probing w (s.observing phAfterHigh k))
      = .next (s.probing (w ++ [false]) (s.observing phAfterHigh (k + 1))) := by
  refine hs.step_writes (hs.probing w (s.observing phAfterHigh k)).step_yield ?_
  rw [yieldStep_afterHigh _ rfl, yieldAfterHigh, if_pos (hs.line_eq hline _ _),
    if_neg (mt (hs.highTmo_le_iff w _ (Nat.le_of_lt hk)).mp (Nat.not_le.mpr hk))]
  simp only [State.diagCount, State.diagStay, State.probing, State.observing, count_succ]

theorem Observes.yieldStep_highTmo (hline : s.lineAt (s.cycle + w.length) = true) :
    let v := s.probing w (s.observing phAfterHigh (25 * s.tpDelta.toNat))
    yieldStep v v = v.endYield yieldYielded .ok := by
  intro v
  rw [yieldStep_afterHigh _ rfl, yieldAfterHigh, if_pos (hs.line_eq hline _ _),
    if_pos ((hs.highTmo_le_iff w _ (Nat.le_refl _)).mpr (Nat.le_refl _))]

theorem Observes.step_falls (hline : s.lineAt (s.cycle + w.length) = false) (k : Nat) :
    step (s.probing w (s.observing phAfterHigh k)) = .next (s.probing (w ++ [false]) (s.observing phAfterLow 1)) := by
  refine hs.step_writes (hs.probing w (s.observing phAfterHigh k)).step_yield ?_
  rw [yieldStep_afterHigh _ rfl, yieldAfterHigh, if_neg (Bool.eq_false_iff.mp (hs.line_eq hline _ _))]
  rfl

theorem Observes.step_low (hline : s.lineAt (s.cycle + w.length) = false) (hk : k < 150) :
    step (s.probing w (s.observing phAfterLow k))
      = .next (s.probing (w ++ [false]) (s.observing phAfterLow (k + 1))) := by
  have hcnt : ¬ Config.guardCyc ≤ (count k).toNat := by
    rw [count_toNat (by omega)]
    exact Nat.not_le.mpr hk
  refine hs.step_writes (hs.probing w (s.observing phAfterLow k)).step_yield ?_
  rw [yieldStep_afterLow _ rfl, yieldAfterLow, if_neg (Bool.eq_false_iff.mp (hs.line_eq hline _ _))]
  refine (if_neg hcnt).trans ?_
  simp only [State.diagCount, State.diagStay, State.probing, State.observing, count_succ]

theorem Observes.yieldStep_rises (hline : s.lineAt (s.cycle + w.length) = true) (k : Nat) :
    let v := s.probing w (s.observing phAfterLow k)
    yieldStep v v = v.endYield yieldDidNot .ok := by
  intro v
  rw [yieldStep_afterLow _ rfl, yieldAfterLow, if_pos (hs.line_eq hline _ _)]

theorem Observes.yieldStep_longLow (hline : s.lineAt (s.cycle + w.length) = false) :
    let v := s.probing w (s.observing phAfterLow 150)
    yieldStep v v = v.endYield yieldYielded .ok := by
  intro v
  rw [yieldStep_afterLow _ rfl, yieldAfterLow, if_neg (Bool.eq_false_iff.mp (hs.line_eq hline _ _))]
  exact if_pos (Nat.le_refl 150)

end

/-! ### The runs -/

/-- The high run, up to its bound. -/
theorem Observes.reaches_high {y : Nat} (hy : y ≤ 25 * s.tpDelta.toNat)
    (hhigh : ∀ k, k < y → s.lineAt (s.cycle + k) = true) :
    Reaches s (s.probing (List.replicate y false) (s.observing phAfterHigh y)) := by
  have hrun := reaches_probing (s := s) (w := []) (low := false) (r := s.observing phAfterHigh) (n := y) fun k hk =>
    hs.step_high (by simpa using hhigh k hk) (Nat.lt_of_lt_of_le hk hy)
  rwa [hs.start] at hrun

/-- A high run of `y` cycles and a low run of `q`. -/
theorem Observes.reaches_low {y q : Nat} (hy : y ≤ 25 * s.tpDelta.toNat) (hpos : 1 ≤ q) (hq : q ≤ 150)
    (hhigh : ∀ k, k < y → s.lineAt (s.cycle + k) = true) (hlow : ∀ k, k < q → s.lineAt (s.cycle + y + k) = false) :
    Reaches s (s.probing (List.replicate (y + q) false) (s.observing phAfterLow q)) := by
  obtain ⟨m, rfl⟩ := Nat.exists_eq_add_of_le' hpos
  have hfall := hs.step_falls (w := List.replicate y false) (by simpa using hlow 0 hpos) y
  have hrun := reaches_probing (s := s) (w := List.replicate y false ++ [false]) (low := false)
    (r := fun k => s.observing phAfterLow (k + 1)) (n := m) fun k hk => by
      have hlen : s.cycle + (List.replicate y false ++ [false] ++ List.replicate k false).length
          = s.cycle + y + (k + 1) := by
        simp only [List.length_append, List.length_replicate, List.length_singleton]
        omega
      exact hs.step_low (by rw [hlen]; exact hlow (k + 1) (Nat.succ_lt_succ hk)) (by omega)
  have hreach := ((hs.reaches_high hy hhigh).trans (reaches_probing_next hfall)).trans hrun
  rwa [← List.replicate_succ', List.replicate_append_replicate, Nat.add_right_comm, Nat.add_assoc] at hreach

/-- The end of the probe (46_diagnostic.md R288). -/
theorem Observes.ended {n : Nat} {r : ProbeRegs} {o : BitVec 2}
    (hreach : Reaches s (s.probing (List.replicate n false) r))
    (hend : let v := s.probing (List.replicate n false) r
      yieldStep v v = v.endYield o .ok) : ∃ t, stepN (s.cycle + n + 1 - s.cycle) s = some t
      ∧ t.diagYield = o ∧ t.diagMode = false ∧ t.drvLow = false
      ∧ t.replies = ⟨s.cycle + n, 0x52, .status .ok⟩ :: s.replies
      ∧ t.events = ⟨s.cycle + n, .diagDone .yield .ok⟩ :: s.events
      ∧ t.view = { s.view with diagYield := o } := by
  have hw : (List.replicate n false).length = n := List.length_replicate
  obtain ⟨prev, hv⟩ := s.probing_eq (List.replicate n false) r
  have hstep := (hs.probing (List.replicate n false) r).step_yield
  rw [hend] at hstep
  have hcycle := s.probing_cycle (List.replicate n false) r
  rw [hw] at hcycle hv
  refine ⟨_, (hreach.trans (.of_step hstep rfl)).stepN_eq ?_, rfl, rfl, rfl, ?_⟩
  · show (s.probing _ r).cycle + 1 = _
    omega
  · rw [hv]
    exact ⟨rfl, rfl, rfl⟩

end

/-- Settles O60: each outcome by its runs. -/
theorem yieldOutcomeFollowsTheLine : Obligations.YieldOutcomeFollowsTheLine := by
  intro s y q hu hrst _ hrx hmode hop hphase hcnt hdrv hfits ends
  have hs : Observes s := ⟨⟨⟨hu, hrx, hmode, hop⟩, hrst⟩, hphase, hcnt, hdrv, hfits⟩
  have length_of (n : Nat) : (List.replicate n false).length = n := List.length_replicate
  refine ⟨fun ⟨hhigh, _⟩ => ?stays, fun hy hpos hq ⟨hhigh, hlow, hrise, _⟩ => ?short,
    fun hy ⟨hhigh, hlow, _⟩ => ?long⟩
  case stays =>
    refine hs.ended (hs.reaches_high (Nat.le_refl _) fun k hk => hhigh k (Nat.lt_succ_of_lt hk))
      (hs.yieldStep_highTmo ?_)
    rw [length_of]
    exact hhigh _ (Nat.lt_succ_self _)
  case short =>
    have hreach := hs.reaches_low hy hpos hq hhigh hlow
    rw [Nat.add_assoc s.cycle]
    refine hs.ended hreach (hs.yieldStep_rises ?_ q)
    rw [length_of, ← Nat.add_assoc]
    exact hrise 0 Nat.one_pos
  case long =>
    have hreach := hs.reaches_low hy (by decide) (Nat.le_refl 150) hhigh fun k hk => hlow k (Nat.lt_succ_of_lt hk)
    rw [Nat.add_assoc s.cycle]
    refine hs.ended hreach (hs.yieldStep_longLow ?_)
    rw [length_of, ← Nat.add_assoc]
    exact hlow 150 (Nat.lt_succ_self _)

end Sys2Proof.Machine
end

section
/-! SUPPORT. Obligation O59: the injection, cell by cell. A cell is released for DELTA cycles and low for 150, and no
cycle of it looks at the line or at the ceiling. -/

namespace Sys2Proof.Machine

/-- DIAG's registers in the guard of the tag byte's last bit. -/
def State.tagGuard (s : State) : ProbeRegs := ⟨phLastGuard, s.diagCnt.toNat, s.diagIdx, s.diagFall, false⟩

/-- DIAG's registers in the guard of the injected cell `j`, `k` of its cycles done (46_diagnostic.md R288, R291). -/
def State.injGuard (s : State) (j k : Nat) : ProbeRegs := ⟨phInjLow, k, BitVec.ofNat 8 j, s.diagFall, true⟩

/-- DIAG's registers in the injected cell `j` after `k` cycles of its high phase. -/
def State.injCell (s : State) (j k : Nat) : ProbeRegs :=
  if k < s.tpDelta.toNat then ⟨phInjHigh, k, BitVec.ofNat 8 j, s.diagFall, false⟩ else s.injGuard j 0

/-- DIAG's registers after the guard of the injected cell `j`: the next cell's, or those of the observation. -/
def State.afterInjected (s : State) (j : Nat) : ProbeRegs :=
  if j + 1 < 8 then s.injCell (j + 1) 0 else ⟨phAfterHigh, 0, BitVec.ofNat 8 j, s.diagFall, false⟩

/-- One injected cell, by its values of DRV_LOW (46_diagnostic.md R291). -/
def injectedCell (delta : Nat) : List Bool := List.replicate delta false ++ List.replicate 150 true

/-- The forced-yield probe in the first high cycle after the tag byte's last guard, with time for an injection left. -/
structure Injects (s : State) : Prop extends Probes s .yield where
  phase : s.diagPhase = phLastGuard
  released : s.drvLow = false
  line : s.line = true
  delta_pos : 1 ≤ s.tpDelta.toNat
  time : 8 * (s.tpDelta.toNat + 150) + 25 * s.tpDelta.toNat + 150 < s.diagTmr.toNat

/-! ### One cycle -/

/-- A cycle of a cell's high phase in which DIAG_IDX is written as well. -/
theorem State.injectHigh_probing (s : State) (w : List Bool) {r : ProbeRegs} (hfall : r.fall = s.diagFall) (j n : Nat) :
    let v := s.probing w r
    State.injectHigh v { v with diagIdx := BitVec.ofNat 8 j } n = State.diagStay v (s.probing w (s.injCell j n)) := by
  intro v
  have hdelta : v.timing.delta = s.tpDelta.toNat := congrArg Timing.delta (s.probing_timing w r)
  rw [State.injectHigh, hdelta, State.injCell]
  split <;> simp only [State.diagGo, State.diagStay, State.probing, State.injGuard, v, hfall]

section
variable {s : State} (hs : Injects s)
include hs

/-- The guard's end begins the first cell (46_diagnostic.md R288). -/
theorem Injects.step_begins : step s = .next (s.probing [false] (s.injCell 0 1)) := by
  have hstart : s.probing [] s.tagGuard = s :=
    State.probing_self (by rw [State.tagGuard, hs.phase, hs.released]) (by simp [State.tagGuard, count])
  have hceil : ¬ s.atCeiling = true := fun h => by
    have htime := hs.time
    rw [(atCeiling_iff s).mp h] at htime
    exact Nat.not_lt_zero _ htime
  have hstep := hs.step_yieldGuard hceil hs.phase
  rw [if_pos hs.line, if_neg (Nat.not_le.mpr hs.time)] at hstep
  have hnext := s.injectHigh_probing [] (r := s.tagGuard) rfl 0 1
  have hwrites := hs.step_writes (w := []) (r := s.tagGuard) (r' := s.injCell 0 1)
    (t := State.injectHigh s { s with diagIdx := 0 } 1)
  rw [hstart] at hnext hwrites
  exact hwrites hstep hnext

/-- A further cycle of a cell's high phase. -/
theorem Injects.step_high (w : List Bool) (j : Nat) {k : Nat} (hk : k < s.tpDelta.toNat) :
    step (s.probing w (s.injCell j k)) = .next (s.probing (w ++ [false]) (s.injCell j (k + 1))) := by
  have hcell : s.injCell j k = ⟨phInjHigh, k, BitVec.ofNat 8 j, s.diagFall, false⟩ := if_pos hk
  have hcnt : (count k).toNat = k := count_toNat (Nat.lt_trans hk s.tpDelta.isLt)
  rw [hcell]
  refine hs.step_writes (hs.probing w ⟨phInjHigh, k, BitVec.ofNat 8 j, s.diagFall, false⟩).step_yield ?_
  rw [yieldStep_injHigh _ rfl]
  show State.injectHigh _ _ ((count k).toNat + 1) = _
  rw [hcnt]
  exact s.injectHigh_probing w rfl j (k + 1)

/-- A cycle of a cell's guard. -/
theorem Injects.step_guard (w : List Bool) (j : Nat) {k : Nat} (hk : k + 1 < 150) :
    step (s.probing w (s.injGuard j k)) = .next (s.probing (w ++ [true]) (s.injGuard j (k + 1))) := by
  have hcnt : (count k).toNat + 1 < Config.guardCyc := by
    rw [count_toNat (by omega)]
    exact hk
  refine hs.step_writes (hs.probing w (s.injGuard j k)).step_yield ?_
  rw [yieldStep_injLow _ rfl]
  refine (if_pos hcnt).trans ?_
  simp only [State.diagCount, State.diagStay, State.probing, State.injGuard, count_succ]

/-- The last cycle of a cell's guard. -/
theorem Injects.step_guardEnds (w : List Bool) {j : Nat} (hj : j < 8) :
    step (s.probing w (s.injGuard j 149)) = .next (s.probing (w ++ [true]) (s.afterInjected j)) := by
  have hidx : (BitVec.ofNat 8 j).toNat = j := Nat.mod_eq_of_lt (by omega)
  have hnext : s.injCell (j + 1) 0 = ⟨phInjHigh, 0, BitVec.ofNat 8 j + 1, s.diagFall, false⟩ :=
    (if_pos hs.delta_pos).trans (by rw [BitVec.ofNat_add]; rfl)
  refine hs.step_writes (hs.probing w (s.injGuard j 149)).step_yield ?_
  rw [yieldStep_injLow _ rfl]
  refine (if_neg (show ¬ (count 149).toNat + 1 < Config.guardCyc by decide)).trans ?_
  rw [State.afterInjected, hnext]
  show (if (BitVec.ofNat 8 j).toNat + 1 < 8 then _ else _) = _
  rw [hidx]
  split <;> rfl

/-! ### The cells -/

/-- From the cycle in which `k` cycles of cell `j` are done to its end. -/
theorem Injects.reaches_cellEnd (w : List Bool) {j k : Nat} (hj : j < 8) (hk : k ≤ s.tpDelta.toNat) :
    Reaches (s.probing w (s.injCell j k))
      (s.probing (w ++ injectedCell (s.tpDelta.toNat - k)) (s.afterInjected j)) := by
  have hhigh := reaches_probing (s := s) (w := w) (low := false) (r := fun i => s.injCell j (k + i))
    (n := s.tpDelta.toNat - k) fun i hi => hs.step_high _ j (by omega)
  have hguardBegin : s.injCell j (k + (s.tpDelta.toNat - k)) = s.injGuard j 0 := if_neg (by omega)
  have hguard := reaches_probing (s := s) (w := w ++ List.replicate (s.tpDelta.toNat - k) false) (low := true)
    (r := s.injGuard j) (n := 149) fun i hi => hs.step_guard _ j (Nat.succ_lt_succ hi)
  rw [hguardBegin] at hhigh
  have hreach := (hhigh.trans hguard).trans (reaches_probing_next (hs.step_guardEnds _ hj))
  rwa [List.append_assoc, List.append_assoc, ← List.replicate_succ'] at hreach

/-- The first `m + 1` cells. -/
theorem Injects.reaches_cells {m : Nat} (hm : m < 8) :
    Reaches s (s.probing (List.replicate (m + 1) (injectedCell s.tpDelta.toNat)).flatten (s.afterInjected m)) := by
  induction m with
  | zero =>
    obtain ⟨n, hn⟩ := Nat.exists_eq_add_of_le' hs.delta_pos
    have hfirst : Reaches s (s.probing [false] (s.injCell 0 1)) := .of_step hs.step_begins (s.probing_cycle _ _)
    have hreach := hfirst.trans (hs.reaches_cellEnd [false] hm hs.delta_pos)
    rw [List.replicate_one, List.flatten_singleton]
    rw [hn, Nat.add_sub_cancel] at hreach
    rw [hn, injectedCell, List.replicate_succ]
    exact hreach
  | succ m ih =>
    have hnext : s.afterInjected m = s.injCell (m + 1) 0 := if_pos hm
    have hreach := ih (Nat.lt_of_succ_lt hm)
    rw [hnext] at hreach
    rw [List.replicate_succ', List.flatten_append, List.flatten_singleton]
    exact hreach.trans (hs.reaches_cellEnd _ hm (Nat.zero_le _))

end

/-- Settles O59: the eight cells, and what the cycles between leave alone. -/
theorem injectionIsEightDominantCells : Obligations.InjectionIsEightDominantCells := by
  intro s hu hrst _ hrx hmode hop hphase hdrv hline hdelta htime
  have hs : Injects s := ⟨⟨⟨hu, hrx, hmode, hop⟩, hrst⟩, hphase, hdrv, hline, hdelta, htime⟩
  have hreach := hs.reaches_cells (m := 7) (by decide)
  obtain ⟨prev, hv⟩ := s.probing_eq (List.replicate 8 (injectedCell s.tpDelta.toNat)).flatten (s.afterInjected 7)
  have hlen : (List.replicate 8 (injectedCell s.tpDelta.toNat)).flatten.length = 8 * (s.tpDelta.toNat + 150) := by
    rw [List.length_flatten, List.map_replicate, List.sum_replicate_nat, injectedCell, List.length_append,
      List.length_replicate, List.length_replicate]
  refine ⟨_, hreach.stepN_eq ((s.probing_cycle _ _).trans (by rw [hlen])), ?_⟩
  rw [hv]
  exact ⟨rfl, rfl, hmode, rfl, rfl, rfl, rfl, rfl⟩

end Sys2Proof.Machine
end

section
/-! SUPPORT. Obligation O9: reset, and CFG_VALID without it. No agent writes CFG_VALID, a successful INIT is the only operation
that does, and it sets it; so the parts of a step, put in sequence, clear it only by a reset. -/

namespace Sys2Proof.Machine

/-! ### Outcomes that leave the block configured -/

/-- What the statement asks of a step without reset, asked of one part of it: where it goes on, CFG_VALID is set if it
`was` before that part. -/
def KeepsConfigured (was : Bool) : Host.Outcome State Fault Refusal → Prop
  | .next t => was = true → t.cfgValid = true
  | .fault _ | .refused _ => True

theorem keepsConfigured_next {s t : State} (h : t.cfgValid = s.cfgValid) : KeepsConfigured s.cfgValid (.next t) :=
  fun hs => h.trans hs

theorem KeepsConfigured.mono {b c : Bool} {o : Host.Outcome State Fault Refusal} (h : KeepsConfigured c o)
    (hbc : b = true → c = true) : KeepsConfigured b o := by
  cases o with
  | next t => exact fun hb => h (hbc hb)
  | fault | refused => trivial

theorem KeepsConfigured.andThen {b : Bool} {o : Host.Outcome State Fault Refusal}
    {k : State → Host.Outcome State Fault Refusal} (ho : KeepsConfigured b o)
    (hk : ∀ t, KeepsConfigured t.cfgValid (k t)) : KeepsConfigured b (andThen o k) := by
  cases o with
  | next t => exact (hk t).mono ho
  | fault | refused => trivial

/-! ### The clock cycle -/

/-- No agent writes CFG_VALID (10_state.md R23). -/
theorem clock_cfgValid (s0 s1 : State) : (clock s0 s1).cfgValid = s1.cfgValid := by
  rw [clock, State.endCycle_cfgValid, diagCycle_only, arbCycle_only, rxCycle_only, hostCycle_only]

theorem clockOut_keepsConfigured (s0 s1 : State) : KeepsConfigured s1.cfgValid (clockOut s0 s1) := by
  unfold clockOut
  split
  · trivial
  · exact keepsConfigured_next (clock_cfgValid s0 s1)

/-! ### Operations -/

/-- INIT sets CFG_VALID or fails and writes nothing (45_host_ops.md R252). -/
theorem execInit_keepsConfigured (m : BusMode) (s : State) : KeepsConfigured s.cfgValid (execInit m s) := by
  unfold execInit
  split
  · exact fun _ => rfl
  · exact keepsConfigured_next rfl

theorem execSubmit_keepsConfigured (b : List Byte) (w : Wait) (s : State) :
    KeepsConfigured s.cfgValid (execSubmit b w s) := by
  unfold execSubmit
  split
  · trivial
  · split
    · exact keepsConfigured_next rfl
    · split
      · exact keepsConfigured_next rfl
      · split
        · exact keepsConfigured_next rfl
        · split <;> exact keepsConfigured_next rfl

theorem execRetrieve_keepsConfigured (s : State) : KeepsConfigured s.cfgValid (execRetrieve s) := by
  unfold execRetrieve
  split
  · trivial
  · split
    · exact keepsConfigured_next rfl
    · split
      · exact keepsConfigured_next rfl
      · split <;> exact keepsConfigured_next rfl

theorem issueProbe_keepsConfigured (p : Probe) (start : State → State) (s : State)
    (hstart : ∀ t, (start t).cfgValid = t.cfgValid) : KeepsConfigured s.cfgValid (issueProbe p start s) := by
  unfold issueProbe
  split
  · exact keepsConfigured_next (hstart _)
  · exact keepsConfigured_next rfl

theorem arbOperation_keepsConfigured (code : BitVec 3) {op : State → State → State}
    (hop : ∀ s0 t, OnlyArb t (op s0 t)) (s : State) : KeepsConfigured s.cfgValid (arbOperation code op s) := by
  unfold arbOperation
  split
  · split
    · trivial
    · refine keepsConfigured_next ?_
      rw [arbRun_only op hop]
  · exact keepsConfigured_next rfl

theorem execRxFrame_keepsConfigured (s : State) : KeepsConfigured s.cfgValid (execRxFrame s) := by
  unfold execRxFrame
  split
  · refine keepsConfigured_next ?_
    split <;> simp [State.storeCapture, State.endCapture_eq]
  · exact keepsConfigured_next rfl

/-- No operation clears CFG_VALID. -/
theorem exec_keepsConfigured (i : Instr) (s : State) : KeepsConfigured s.cfgValid (exec i s) := by
  cases i with
  | decodeHeader | serialize | deserialize | validate | readStatus | inferGrade | frameStructured | frameGeneric =>
    exact keepsConfigured_next rfl
  | sampleBit | sampleByte | driveBit | startFrame | sendByte => exact keepsConfigured_next (by simp)
  | sendFrame => exact keepsConfigured_next (by simp [State.raiseCollision_eq])
  | symSync | symBitsync | symBit0 | symBit1 | frameOnLine => exact keepsConfigured_next (by simp [State.putOnLine])
  | rxFrame => exact execRxFrame_keepsConfigured s
  | arbWaiting => exact arbOperation_keepsConfigured _ arbWaiting_only s
  | arbListening => exact arbOperation_keepsConfigured _ arbListening_only s
  | arbStarting => exact arbOperation_keepsConfigured _ arbStarting_only s
  | arbSending => exact arbOperation_keepsConfigured _ arbSending_only s
  | arbReading => exact arbOperation_keepsConfigured _ arbReading_only s
  | init m => exact execInit_keepsConfigured m s
  | submit b w => exact execSubmit_keepsConfigured b w s
  | retrieve => exact execRetrieve_keepsConfigured s
  | diagElec | diagTiming | diagYield => exact issueProbe_keepsConfigured _ _ s fun _ => rfl

/-! ### Calls of the block -/

theorem untilReset_eq_none {ins : List CycleIn} (h : ∀ c ∈ ins, c.rst = false) : untilReset ins = none := by
  induction ins with
  | nil => rfl
  | cons c r ih =>
    obtain ⟨hc, hr⟩ := List.forall_mem_cons.mp h
    simp [untilReset, hc, ih hr]

/-- Without a reset to come an operation that runs on its own is not cut. -/
theorem cutByReset_of_no_reset {s : State} (h : ∀ c ∈ s.inputs, c.rst = false) (s1 : State) : cutByReset s s1 = s1 := by
  simp only [cutByReset, untilReset_eq_none fun c hc => h c (List.mem_of_mem_take hc)]

theorem blockOp_keepsConfigured {s : State} (h : ∀ c ∈ s.inputs, c.rst = false) (i : Instr) :
    KeepsConfigured s.cfgValid (blockOp i s) := by
  unfold blockOp
  split <;> refine (exec_keepsConfigured i s).andThen fun t => ?_
  · exact keepsConfigured_next (congrArg State.cfgValid (cutByReset_of_no_reset h t))
  · split <;> exact clockOut_keepsConfigured s _
  · exact clockOut_keepsConfigured s t

theorem blockCall_keepsConfigured {s : State} (h : ∀ c ∈ s.inputs, c.rst = false) (c : Call) :
    KeepsConfigured s.cfgValid (blockCall c s) := by
  unfold blockCall
  split
  · exact blockOp_keepsConfigured h _
  · exact clockOut_keepsConfigured s (s.badOp c)

/-! ### Calls of HOST -/

theorem badOps_cfgValid (cs : List Call) (s : State) : (badOps cs s).cfgValid = s.cfgValid := by
  unfold badOps
  induction cs generalizing s with
  | nil => rfl
  | cons c cs ih =>
    rw [List.foldl_cons, ih]
    split <;> rfl

theorem execAll_keepsConfigured (is : List Instr) (s : State) : KeepsConfigured s.cfgValid (execAll is s) := by
  induction is generalizing s with
  | nil => exact keepsConfigured_next rfl
  | cons i r ih => exact (exec_keepsConfigured i s).andThen ih

theorem hostCalls_keepsConfigured (cs : List Call) (s : State) : KeepsConfigured s.cfgValid (hostCalls cs s) := by
  simp only [hostCalls]
  split
  · trivial
  · rw [← badOps_cfgValid cs s]
    exact (execAll_keepsConfigured _ _).andThen (clockOut_keepsConfigured s)

/-! ### The statement -/

theorem runFetch_keepsConfigured {s : State} (h : ∀ c ∈ s.inputs, c.rst = false) (f : Fetch) :
    KeepsConfigured s.cfgValid (runFetch f s) := by
  cases f with
  | idle => exact clockOut_keepsConfigured s s
  | block c r => exact blockCall_keepsConfigured (s := { s with calls := r }) h c
  | host cs r => exact hostCalls_keepsConfigured cs { s with calls := r }

/-- Settles O9: without reset no part of a step clears CFG_VALID, and with it the step is the reset cycle, whatever the
cycle would have run. -/
theorem resetWinsOverEverything : Obligations.ResetWinsOverEverything := by
  refine ⟨fun s t hrst hstep hcfg => ?_, fun s hrst => if_pos hrst⟩
  have hrun : KeepsConfigured s.cfgValid (.next t) := by
    rw [← hstep, step_of_fetch (inputNow_rst_of_inputs hrst) rfl]
    exact runFetch_keepsConfigured hrst s.fetch
  exact hrun hcfg

end Sys2Proof.Machine
end

section
/-! SUPPORT. Obligations O5, O6 and O10: the reset values, and LINE_PREV after a step. A clock cycle writes LINE_PREV once,
from the line of its own cycle; an operation that runs on its own is a sequence of such cycles, and nothing else that it
does touches LINE_PREV. -/

namespace Sys2Proof.Machine

/-! ### Reset -/

/-- Settles O5: the reset state is written out field by field. -/
theorem resetGivesTheListedValues : Obligations.ResetGivesTheListedValues := by
  rintro p s rfl
  simp only [State.resetWith, and_self]

/-- Right after reset every buffer and FIFO is empty, nobody drives the line, and no reception, probe or call is under
way. -/
theorem State.resetWith_safe (p : Config.Params) : (State.resetWith p).safe := by
  have unset {P : Prop} : false = true → P := fun h => absurd h Bool.false_ne_true
  refine ⟨⟨rfl, rfl, rfl, rfl⟩, ⟨Nat.zero_le _, Nat.zero_le _, Nat.zero_le _⟩,
    ⟨unset, unset, unset, fun _ => rfl, unset⟩, ⟨Nat.zero_le _, rfl, unset, unset⟩, ⟨?ring, ?inq, ?outq, nofun⟩,
    ⟨unset, unset, ?tx, unset, ?unpopped, ?popped⟩⟩
  case ring | inq | outq => exact List.forall_mem_nil _
  case tx => exact (by decide : (0 : Byte) ≠ 255)
  case unpopped | popped => exact fun h => absurd h (by decide : arbWaitingCode ≠ arbReadingCode)

/-- Settles O6, for every parameter set and for that of `State.reset`. -/
theorem resetIsSafe : Obligations.ResetIsSafe := ⟨State.resetWith_safe, State.resetWith_safe Config.params⟩

/-! ### What a part of a step leads to -/

/-- Where an outcome goes on, it goes on in a state with `P`. -/
def Lands (P : State → Prop) : Host.Outcome State Fault Refusal → Prop
  | .next t => P t
  | .fault _ | .refused _ => True

theorem Lands.andThen {P Q : State → Prop} {o : Host.Outcome State Fault Refusal}
    {k : State → Host.Outcome State Fault Refusal} (ho : Lands P o) (hk : ∀ t, P t → Lands Q (k t)) :
    Lands Q (andThen o k) := by
  cases o with
  | next t => exact hk t ho
  | fault | refused => trivial

theorem lands_trivial (o : Host.Outcome State Fault Refusal) : Lands (fun _ => True) o := by
  cases o <;> trivial

theorem lands_clockOut {P : State → Prop} {s0 s1 : State} (h : P (clock s0 s1)) : Lands P (clockOut s0 s1) := by
  unfold clockOut
  split
  · trivial
  · exact h

/-! ### LINE_PREV after cycles that passed -/

/-- If a cycle has passed from `s` to `t`, LINE_PREV is the line of the last one (10_state.md R30). -/
def FollowsLine (s t : State) : Prop :=
  s.cycle < t.cycle → t.linePrev = (s.inputAt (t.cycle - 1)).line.level (t.drvTrace.headD s.drvLow)

theorem followsLine_of_cycle_eq {s t : State} (h : t.cycle = s.cycle) : FollowsLine s t :=
  fun hlt => absurd hlt (by omega)

/-- A cycle that passes `n` cycles after `s`. -/
theorem State.passCycle_followsLine {s u : State} {n : Nat} (hcycle : u.cycle = s.cycle + n)
    (hinputs : u.inputs = s.inputs.drop n) (hparams : u.params = s.params) (d : Bool) :
    FollowsLine s (u.passCycle d) := by
  intro _
  simp [State.passCycle, State.inputNow, State.inputAt, State.idleIn, hcycle, hinputs, hparams,
    List.headD_eq_head?_getD]

theorem State.passWave_followsLine (s : State) (w : List Bool) : FollowsLine s (s.passWave w) := by
  rcases List.eq_nil_or_concat w with rfl | ⟨v, d, rfl⟩
  · exact followsLine_of_cycle_eq rfl
  · rw [List.concat_eq_append, State.passWave_append]
    exact State.passCycle_followsLine (s.passWave_cycle v) (s.passWave_inputs v) (s.passWave_params v) d

theorem execRxFrame_followsLine (s : State) : Lands (FollowsLine s) (execRxFrame s) := by
  cases htrig : s.trig with
  | false =>
    rw [execRxFrame, htrig]
    exact followsLine_of_cycle_eq rfl
  | true =>
    rw [show execRxFrame s = exec .rxFrame s from rfl, exec_rxFrame htrig rfl]
    refine State.passCycle_followsLine (n := (rxFrameAt s.lineAt s.timing s.cycle).tEnd - s.cycle) ?_ ?_ ?_ _ <;>
      simp [State.received, State.storeCapture]

/-- An operation that runs on its own lets its cycles pass, and writes what else it writes beside LINE_PREV. -/
theorem exec_followsLine {i : Instr} (hk : kindOf i = .run) (s : State) : Lands (FollowsLine s) (exec i s) := by
  cases i with
  | validate | init | submit | retrieve | readStatus | diagElec | diagTiming | diagYield | arbWaiting | arbListening
  | arbStarting | arbSending | arbReading => cases hk
  | decodeHeader | serialize | deserialize | inferGrade | frameStructured | frameGeneric =>
    exact followsLine_of_cycle_eq rfl
  | sampleBit | sampleByte | driveBit | startFrame | sendByte => exact s.passWave_followsLine _
  | symSync | symBitsync | symBit0 | symBit1 | frameOnLine => exact s.passWave_followsLine _
  | sendFrame b =>
    simp only [exec, execSendFrame, State.raiseCollision_eq]
    exact s.passWave_followsLine _
  | rxFrame => exact execRxFrame_followsLine s

/-! ### LINE_PREV after a step -/

/-- A clock cycle samples the line once, whatever its calls and its agents write. -/
theorem clockOut_followsLine (s0 s1 : State) : Lands (FollowsLine s0) (clockOut s0 s1) :=
  lands_clockOut fun _ => by
    simp [clock, State.line, State.inputNow, State.inputAt, List.headD_eq_head?_getD, List.head?_eq_getElem?]

theorem blockOp_followsLine {s : State} (hrst : ∀ c ∈ s.inputs, c.rst = false) (i : Instr) :
    Lands (FollowsLine s) (blockOp i s) := by
  unfold blockOp
  split
  next hk =>
    refine (exec_followsLine hk s).andThen fun t ht => ?_
    rw [cutByReset_of_no_reset hrst]
    exact ht
  next => exact (lands_trivial _).andThen fun t _ => clockOut_followsLine s _
  next => exact (lands_trivial _).andThen fun t _ => clockOut_followsLine s t

theorem runFetch_followsLine {s : State} (hrst : ∀ c ∈ s.inputs, c.rst = false) (f : Fetch) :
    Lands (FollowsLine s) (runFetch f s) := by
  cases f with
  | idle => exact clockOut_followsLine s s
  | block c r =>
    simp only [runFetch, blockCall]
    split
    · exact blockOp_followsLine (s := { s with calls := r }) hrst _
    · exact clockOut_followsLine { s with calls := r } _
  | host cs r =>
    simp only [runFetch, hostCalls]
    split
    · trivial
    · exact (lands_trivial _).andThen fun t _ => clockOut_followsLine { s with calls := r } t

/-- Settles O10: without reset a step is a clock cycle or a run of its own, and both follow the line. -/
theorem linePrevFollowsTheLine : Obligations.LinePrevFollowsTheLine := by
  intro s t hrst hstep
  have hrun : Lands (FollowsLine s) (.next t) := by
    rw [← hstep, step_of_fetch (inputNow_rst_of_inputs hrst) rfl]
    exact runFetch_followsLine hrst s.fetch
  exact hrun

end Sys2Proof.Machine
end

section
/-! SUPPORT. Obligation O7, the agents: each agent's cycle keeps the invariant. For each of them one lemma says what it has to
show of its own registers; the rest of the invariant follows from what it leaves unchanged. -/

namespace Sys2Proof.Machine

/-! ### Elements of the FIFOs -/

/-- A capture or a frame has 1 to 255 bytes (10_state.md R36, R37). -/
abbrev FrameSized (x : List Byte) : Prop := 1 ≤ x.length ∧ x.length ≤ Config.maxFrame

theorem frameSized_tail {q : List (List Byte)} (h : ∀ x ∈ q, FrameSized x) : ∀ x ∈ q.tail, FrameSized x :=
  fun x hx => h x (List.mem_of_mem_tail hx)

theorem frameSized_push {q : List (List Byte)} (h : ∀ x ∈ q, FrameSized x) {b : List Byte} (hb : FrameSized b) :
    ∀ x ∈ q ++ [b], FrameSized x :=
  List.forall_mem_append.mpr ⟨h, List.forall_mem_singleton.mpr hb⟩

theorem frameSized_take (m : Memory) {n : Nat} (h : 1 ≤ n ∧ n ≤ Config.maxFrame) : FrameSized (m.take n) := by
  rwa [FrameSized, Memory.take_length]

theorem ringUsed_push (q : List (List Byte)) (b : List Byte) : ringUsed (q ++ [b]) = ringUsed q + b.length := by
  simp [ringUsed]

theorem ringUsed_tail_le (q : List (List Byte)) : ringUsed q.tail ≤ ringUsed q := by
  cases q <;> simp [ringUsed]

/-! ### The invariant after what one agent writes -/

/-- A running reception is in a phase of its own and stores inside its buffer (10_state.md R32 to R34). -/
def State.receptionOk (t : State) : Prop := t.rxActive = true →
  (1 ≤ t.rxPhase.toNat ∧ t.rxPhase.toNat ≤ 5) ∧ t.rxByteidx ≠ 255 ∧ (t.rxByteidx ≠ 0 → t.rxLen ≠ 0)

/-- RING `r` is that of `s`, or holds one capture more, for which there was room (42_reception.md R189). -/
def State.ringGains (s : State) (r : List (List Byte)) : Prop :=
  r = s.ring ∨ ∃ b, FrameSized b ∧ ringUsed s.ring + b.length ≤ s.params.ringBytes ∧ r = s.ring ++ [b]

/-- A running probe is in a phase of its own and stores inside its buffer; a probe that is over has released the line
(46_diagnostic.md R273). -/
def State.probeOk (p : Probe) (t : State) : Prop :=
  t.diagBuf.wf = true ∧ (t.diagMode = false → t.drvLow = false)
  ∧ (t.diagMode = true → t.diagOp = some p ∧ t.diagPhase ∈ probePhases p
    ∧ (p = .timing → t.diagPhase.toNat ≤ 6 → t.diagIdx ≠ 255))

/-- The buffers and the FIFOs hold what they may. -/
def State.storedOk (t : State) : Prop := t.storageOk ∧ t.fifosOk ∧ t.elementsOk

/-- ARB is in a sub-phase of one of its states, pulls the line low only in Starting and Sending, sends a byte that TX_FRAME
has, and in Reading has a capture to pop or one popped. -/
def State.arbPlaced (t : State) : Prop :=
  (t.drvLow = true → t.arbState = arbStartingCode ∨ t.arbState = arbSendingCode)
  ∧ t.arbState.toNat ≤ 4 ∧ t.arbSubDefined = true ∧ t.txByteidx ≠ 255
  ∧ (t.arbState = arbReadingCode → t.arbSub = 0 → t.ring ≠ [])
  ∧ (t.arbState = arbReadingCode → t.arbSub = 1 → t.rdLen ≠ 0)

section
variable {s t : State} (hs : s.safe)
include hs

theorem receptionOk_of_safe : s.receptionOk := by
  obtain ⟨-, -, -, ⟨-, -, hphase, -⟩, -, hidx, hlen, -⟩ := hs
  exact fun h => ⟨hphase h, hidx h, hlen h⟩

theorem storedOk_of_safe : s.storedOk := by
  obtain ⟨hstorage, hfifos, -, -, helements, -⟩ := hs
  exact ⟨hstorage, hfifos, helements⟩

theorem arbPlaced_of_safe (hmode : s.diagMode = false) : s.arbPlaced := by
  obtain ⟨-, -, ⟨hdrv, -⟩, ⟨hstate, hsub, -⟩, -, -, -, htx, -, hunpopped, hpopped⟩ := hs
  refine ⟨fun h => ?_, hstate, hsub, htx, hunpopped, hpopped⟩
  rcases hdrv h with h | h | h
  · exact .inl h
  · exact .inr h
  · exact absurd (hmode.symm.trans h) Bool.false_ne_true

/-- RX may write its registers, and RING by one capture that fits. -/
theorem safe_of_onlyRx (honly : OnlyRx s t) (hdrv : t.drvLow = s.drvLow) (hbuf : t.rxBuf.wf = true)
    (hring : s.ringGains t.ring) (hreception : t.receptionOk) (hmay : t.rxActive = true → s.cfgValid = true
      ∧ s.arbState ≠ arbStartingCode ∧ s.arbState ≠ arbSendingCode ∧ s.diagMode = false) : t.safe := by
  obtain ⟨⟨-, htxFrame, hrdFrame, hdiagBuf⟩, ⟨hused, hinqLen, houtqLen⟩, ⟨howner, hprobe, -, hidle, haddr⟩,
    ⟨hstate, hsub, -, hphase⟩, ⟨hringEl, hinq, houtq, hwait⟩, -, -, htx, hdiagIdx, hunpopped, hpopped⟩ := hs
  have hring : ringUsed t.ring ≤ s.params.ringBytes ∧ (∀ x ∈ t.ring, FrameSized x) ∧ (s.ring ≠ [] → t.ring ≠ []) := by
    rcases hring with h | ⟨b, hsize, hroom, h⟩ <;> rw [h]
    · exact ⟨hused, hringEl, id⟩
    · exact ⟨ringUsed_push s.ring b ▸ hroom, frameSized_push hringEl hsize, fun _ => List.concat_ne_nil b s.ring⟩
  obtain ⟨hused, hringEl, hkept⟩ := hring
  have hquiet (h : s.diagMode = true) : t.rxActive = false := by
    refine Bool.eq_false_iff.mpr fun hactive => ?_
    obtain ⟨-, -, -, hmode⟩ := hmay hactive
    exact Bool.false_ne_true (hmode.symm.trans h)
  rw [honly] at hreception ⊢
  rw [hdrv]
  refine ⟨⟨hbuf, htxFrame, hrdFrame, hdiagBuf⟩, ⟨hused, hinqLen, houtqLen⟩,
    ⟨howner, fun h => ?_, fun h => ?_, hidle, haddr⟩, ⟨hstate, hsub, fun h => ?_, hphase⟩, ⟨hringEl, hinq, houtq, hwait⟩,
    fun h => ?_, fun h => ?_, htx, hdiagIdx, fun h h' => hkept (hunpopped h h'), hpopped⟩
  · obtain ⟨hcfg, hwaiting, -⟩ := hprobe h
    exact ⟨hcfg, hwaiting, hquiet h⟩
  · obtain ⟨hcfg, hstarting, hsending, -⟩ := hmay h
    exact ⟨hcfg, hstarting, hsending⟩
  · obtain ⟨hrxPhase, -⟩ := hreception h
    exact hrxPhase
  · obtain ⟨-, hidx, -⟩ := hreception h
    exact hidx
  · obtain ⟨-, -, hlen⟩ := hreception h
    exact hlen

/-- DIAG may write its registers and drive the line while its probe runs. -/
theorem safe_of_onlyDiag {p : Probe} (honly : OnlyDiag s t) (hprobe : t.probeOk p)
    (hmay : s.cfgValid = true ∧ s.arbState = arbWaitingCode ∧ s.rxActive = false) : t.safe := by
  obtain ⟨⟨hrxBuf, htxFrame, hrdFrame, -⟩, hfifos, ⟨-, -, hreception, hidle, haddr⟩, ⟨hstate, hsub, hrxPhase, -⟩, helements,
    hrxIdx, hrxLen, htx, -, hreading⟩ := hs
  obtain ⟨hbuf, hreleased, hruns⟩ := hprobe
  have hdrv (h : t.drvLow = true) : t.diagMode = true := by
    refine eq_true_of_ne_false fun hmode => ?_
    exact Bool.false_ne_true ((hreleased hmode).symm.trans h)
  rw [honly]
  refine ⟨⟨hrxBuf, htxFrame, hrdFrame, hbuf⟩, hfifos, ⟨fun h => .inr (.inr (hdrv h)), fun _ => hmay, hreception, hidle, haddr⟩,
    ⟨hstate, hsub, hrxPhase, fun h => ?phase⟩, helements, hrxIdx, hrxLen, htx, fun h hop hle => ?idx, hreading⟩
  case phase =>
    obtain ⟨hop, hphase, -⟩ := hruns h
    exact ⟨p, hop, hphase⟩
  case idx =>
    obtain ⟨hop', -, hidx⟩ := hruns h
    exact hidx (Option.some.inj (hop'.symm.trans hop)) hle

/-- ARB may write its registers, its buffers, the FIFOs and DRV_LOW in a configured block without reception and probe. -/
theorem safe_of_onlyArb (honly : OnlyArb s t) (hstored : t.storedOk) (hplaced : t.arbPlaced)
    (hcfg : s.cfgValid = true) (hrx : s.rxActive = false) (hmode : s.diagMode = false) : t.safe := by
  obtain ⟨-, -, ⟨-, -, -, -, haddr⟩, -, -, -⟩ := hs
  obtain ⟨hstorage, hfifos, helements⟩ := hstored
  obtain ⟨hdrv, hstate, hsub, htx, hreading⟩ := hplaced
  have hquiet {P : Prop} (h : t.rxActive = true) : P := by
    rw [honly] at h
    exact absurd (hrx.symm.trans h) Bool.false_ne_true
  have hnoProbe {P : Prop} (h : t.diagMode = true) : P := by
    rw [honly] at h
    exact absurd (hmode.symm.trans h) Bool.false_ne_true
  have hconfigured : t.cfgValid = true := by rw [honly, hcfg]
  have haddress : t.modeAddr ≠ 0 := by
    rw [honly]
    exact haddr hcfg
  exact ⟨hstorage, hfifos, ⟨fun h => (hdrv h).imp_right .inl, hnoProbe, hquiet,
    fun h => absurd (hconfigured.symm.trans h) Bool.false_ne_true.symm, fun _ => haddress⟩, ⟨hstate, hsub, hquiet, hnoProbe⟩, helements,
    hquiet, hquiet, htx, hnoProbe, hreading⟩

/-- The calls of HOST may write INQ, OUTQ and the waiting SUBMIT. -/
theorem safe_of_onlyHost (honly : OnlyHost s t) (hinqLen : t.inq.length ≤ s.params.inqDepth)
    (houtqLen : t.outq.length ≤ s.params.outqDepth) (hinq : ∀ x ∈ t.inq, FrameSized x) (houtq : ∀ x ∈ t.outq, FrameSized x)
    (hwait : ∀ w, t.subWait = some w → FrameSized w.frame) : t.safe := by
  obtain ⟨hstorage, ⟨hused, -, -⟩, howned, hcodes, ⟨hring, -, -, -⟩, hindices⟩ := hs
  rw [honly]
  exact ⟨hstorage, ⟨hused, hinqLen, houtqLen⟩, howned, hcodes, ⟨hring, hinq, houtq, hwait⟩, hindices⟩

end

end Sys2Proof.Machine
end

section
/-! SUPPORT. Obligation O7, the steps of the agents within a clock cycle. -/

namespace Sys2Proof.Machine

/-- Within a clock cycle that began in `s0`, before the agents of the block: the waiting calls and the calls of the cycle have
written, and what the agents decide on is as it was. -/
structure MidCycle (s0 s : State) : Prop where
  begins : s0.safe
  safe : s.safe
  same : OnlyHost { s0 with hostLock := s.hostLock } s
  inq : s.inq.length ≤ s0.inq.length

theorem MidCycle.refl {s : State} (h : s.safe) : MidCycle s s := ⟨h, h, rfl, Nat.le_refl _⟩

/-! ### RX -/

/-- What RX's step has to show of its own registers. -/
def RxKeeps (s t : State) : Prop :=
  t.rxBuf.wf = true ∧ s.ringGains t.ring ∧ t.receptionOk

theorem rxKeeps_ite {s t u : State} {c : Prop} [Decidable c] (ht : RxKeeps s t) (hu : RxKeeps s u) :
    RxKeeps s (if c then t else u) := by
  split
  · exact ht
  · exact hu

/-- The number of bytes of a reception, once its tag is there: the tag's, or RX_LEN's (42_reception.md R185, R186). -/
theorem rxLength_bounds {s : State} (hs : s.safe) (hactive : s.rxActive = true) (b : Byte) :
    1 ≤ (if s.rxByteidx = 0 then frameLen b else s.rxLen.toNat)
      ∧ (if s.rxByteidx = 0 then frameLen b else s.rxLen.toNat) ≤ Config.maxFrame := by
  obtain ⟨-, -, hlen⟩ := receptionOk_of_safe hs hactive
  split
  next => exact ⟨frameLen_pos b, frameLen_le b⟩
  next hlater =>
    have hne := hlen hlater
    have hlt := s.rxLen.isLt
    rw [Config.maxFrame]
    constructor <;> bv_omega

section
variable {s0 s : State} (h : MidCycle s0 s) (hactive : s0.rxActive = true)
include h

theorem rxKeeps_endReception (e : Event) : RxKeeps s (s.endReception e) := by
  obtain ⟨hstorage, -⟩ := storedOk_of_safe h.safe
  exact ⟨hstorage.1, .inl rfl, fun hrx => absurd hrx Bool.false_ne_true⟩

theorem rxKeeps_self : RxKeeps s s := by
  obtain ⟨hstorage, -⟩ := storedOk_of_safe h.safe
  exact ⟨hstorage.1, .inl rfl, receptionOk_of_safe h.safe⟩

theorem rxKeeps_rxCount : RxKeeps s (State.rxCount s0 s) := rxKeeps_self (s := s) h

theorem rxKeeps_rxGo {phase : BitVec 3} (hphase : 1 ≤ phase.toNat ∧ phase.toNat ≤ 5) : RxKeeps s (s.rxGo phase) := by
  obtain ⟨hbuf, hring, hreception⟩ := rxKeeps_self h
  refine ⟨hbuf, hring, fun hrx => ?_⟩
  obtain ⟨-, hregs⟩ := hreception hrx
  exact ⟨hphase, hregs⟩

include hactive

/-- The byte is stored inside RX_BUF; a further one has an index, and a capture is pushed where RING has room
(42_reception.md R186 to R189). -/
theorem rxKeeps_rxByteDone (b : Byte) : RxKeeps s (rxByteDone s0 s b) := by
  obtain ⟨hmin, hmax⟩ := rxLength_bounds h.begins hactive b
  obtain ⟨-, hidx, -⟩ := receptionOk_of_safe h.begins hactive
  obtain ⟨⟨hbuf, -⟩, -⟩ := storedOk_of_safe h.safe
  have hidx : s0.rxByteidx.toNat < Config.maxFrame := Nat.not_le.mp (mt (maxFrame_le_toNat_iff _).mp hidx)
  have hbuf := Memory.wf_write hbuf hidx b
  have hsame : s.ring = s0.ring ∧ s.params = s0.params := by
    constructor <;> rw [h.same]
  unfold rxByteDone
  generalize (if s0.rxByteidx = 0 then frameLen b else s0.rxLen.toNat) = len at hmin hmax
  rw [Config.maxFrame] at hidx hmax
  dsimp only
  split
  next hmore =>
    have hphase : 1 ≤ (4 : BitVec 3).toNat ∧ (4 : BitVec 3).toNat ≤ 5 := by decide
    have hnext : s0.rxByteidx + 1 ≠ 255 := by bv_omega
    have hlen : BitVec.ofNat 8 len ≠ 0 := by bv_omega
    exact ⟨hbuf, .inl rfl, fun _ => ⟨hphase, hnext, fun _ => hlen⟩⟩
  next =>
    rw [State.endCapture_eq]
    refine ⟨hbuf, ?_, fun hrx => absurd hrx Bool.false_ne_true⟩
    dsimp only [State.endReception, State.raise]
    split
    next hroom =>
      obtain ⟨hring, hparams⟩ := hsame
      rw [State.ringGains, hring, hparams]
      exact .inr ⟨_, frameSized_take _ ⟨hmin, hmax⟩, of_decide_eq_true hroom, rfl⟩
    next => exact .inl rfl

theorem rxKeeps_rxBitDone (v : Bool) : RxKeeps s (rxBitDone s0 s v) := by
  unfold rxBitDone
  dsimp only
  split
  · exact rxKeeps_rxByteDone h hactive _
  · exact rxKeeps_rxGo (s := s) h (by decide)

/-- Every cycle of a reception counts, goes on to a phase, completes a bit or ends. -/
theorem rxKeeps_rxStep : RxKeeps s (rxStep s0 s) := by
  obtain ⟨hphase, -⟩ := receptionOk_of_safe h.begins hactive
  have ends (e : Event) := rxKeeps_endReception h e
  have counts := rxKeeps_rxCount h
  have cells : RxKeeps s (s.rxGo 5) := rxKeeps_rxGo h (by decide)
  rcases rxPhase_cases hphase with e | e | e | e | e <;> simp only [rxStep, e]
  · exact rxKeeps_ite (rxKeeps_rxGo h (by decide)) (rxKeeps_ite (ends _) counts)
  · exact rxKeeps_ite (rxKeeps_ite (ends _) counts) (rxKeeps_ite (ends _) (rxKeeps_rxGo h (by decide)))
  · exact rxKeeps_ite cells (rxKeeps_ite (ends _) counts)
  · exact rxKeeps_ite cells (rxKeeps_ite (ends _) counts)
  · exact rxKeeps_ite (rxKeeps_ite (ends _) counts) (rxKeeps_rxBitDone h hactive _)

end

/-- A running reception keeps the invariant. -/
theorem MidCycle.rxStep_safe {s0 s : State} (h : MidCycle s0 s) (hactive : s0.rxActive = true) :
    (rxStep s0 s).safe := by
  obtain ⟨hbuf, hring, hreception⟩ := rxKeeps_rxStep h hactive
  obtain ⟨hphase, -⟩ := receptionOk_of_safe h.begins hactive
  have hcycle : rxCycle s0 s = rxStep s0 s := if_pos hactive
  have hsame : s.rxActive = true := by rw [h.same, hactive]
  obtain ⟨-, -, ⟨-, hprobe, hrx, -⟩, -⟩ := h.safe
  obtain ⟨hcfg, hstarting, hsending⟩ := hrx hsame
  have hmode : s.diagMode = false := by
    refine Bool.eq_false_iff.mpr fun hmode => ?_
    obtain ⟨-, -, hquiet⟩ := hprobe hmode
    exact Bool.false_ne_true (hquiet.symm.trans hsame)
  exact safe_of_onlyRx h.safe (hcycle ▸ rxCycle_only s0 s) (hcycle ▸ rxCycle_drvLow s0 s fun _ => hphase) hbuf hring
    hreception fun _ => ⟨hcfg, hstarting, hsending, hmode⟩

/-- Taking a falling edge keeps the invariant: the receiver is armed only where a reception may run (10_state.md R31). -/
theorem MidCycle.takeEdge_safe {s0 s : State} (h : MidCycle s0 s) (htrig : s0.trig = true) : s.takeEdge.safe := by
  obtain ⟨hcfg, -, hmode, hstarting, hsending, -, -⟩ := (trig_iff s0).mp htrig
  have hsame : s.cfgValid = s0.cfgValid ∧ s.arbState = s0.arbState ∧ s.diagMode = s0.diagMode := by
    refine ⟨?_, ?_, ?_⟩ <;> rw [h.same]
  obtain ⟨hcfgSame, hstate, hmodeSame⟩ := hsame
  obtain ⟨hstorage, -⟩ := storedOk_of_safe h.safe
  have hphase : 1 ≤ (1 : BitVec 3).toNat ∧ (1 : BitVec 3).toNat ≤ 5 := by decide
  have hidx : (0 : Byte) ≠ 255 := by decide
  have hfirst : s.takeEdge.receptionOk := fun _ => ⟨hphase, hidx, fun hne => absurd rfl hne⟩
  exact safe_of_onlyRx h.safe rfl rfl hstorage.1 (.inl rfl) hfirst fun _ =>
    ⟨hcfgSame.trans hcfg, hstate ▸ hstarting, hstate ▸ hsending, hmodeSame.trans hmode⟩

/-! ### DIAG -/

/-- The probe `p` runs, with its buffer in canonical form. -/
def State.runs (p : Probe) (s : State) : Prop := s.diagMode = true ∧ s.diagOp = some p ∧ s.diagBuf.wf = true

theorem probeOk_ite {p : Probe} {t u : State} {c : Prop} [Decidable c] (ht : t.probeOk p) (hu : u.probeOk p) :
    State.probeOk p (if c then t else u) := by
  split
  · exact ht
  · exact hu

/-- The end of a probe releases the line (46_diagnostic.md R273). -/
theorem probeOk_endProbe {q : Probe} {s : State} (hs : s.runs q) (p : Probe) (st : Status) : (s.endProbe p st).probeOk q := by
  obtain ⟨-, -, hbuf⟩ := hs
  exact ⟨hbuf, fun _ => rfl, fun hmode => absurd hmode Bool.false_ne_true⟩

theorem probeOk_diagGo {p : Probe} {s : State} (hs : s.runs p) (s0 : State) {phase : BitVec 4}
    (hphase : phase ∈ probePhases p) (hidx : p = .timing → phase.toNat ≤ 6 → s.diagIdx ≠ 255) (n : Nat) :
    (State.diagGo s0 s phase n).probeOk p := by
  obtain ⟨hmode, hop, hbuf⟩ := hs
  exact ⟨hbuf, fun hover => absurd (hmode.symm.trans hover) Bool.false_ne_true.symm, fun _ => ⟨hop, hphase, hidx⟩⟩

theorem probeOk_release {p : Probe} {s : State} (h : s.probeOk p) : State.probeOk p { s with drvLow := false } := by
  obtain ⟨hbuf, -, hruns⟩ := h
  exact ⟨hbuf, fun _ => rfl, hruns⟩

section
variable {s0 s : State}

theorem probeOk_elecStep (hs : s.runs .elec) (hok : s.probeOk .elec) (hphase : s0.diagPhase ∈ probePhases .elec) :
    (elecStep s0 s).probeOk .elec := by
  have ends {t : State} {st : Status} (ht : t.runs .elec) : (t.endProbe .elec st).probeOk .elec := probeOk_endProbe ht _ _
  have counts : (State.diagCount s0 s).probeOk .elec := hok
  simp only [probePhases, List.mem_cons, List.not_mem_nil, or_false] at hphase
  rcases hphase with e | e
  · rw [elecStep_fall s e]
    exact probeOk_ite (ends hs) (probeOk_ite (probeOk_ite (probeOk_release counts) counts)
      (probeOk_diagGo (s := { s with diagFall := s0.diagCnt, drvLow := false }) hs s0 (by decide) nofun 0))
  · rw [elecStep_rise s e]
    exact probeOk_ite (ends hs) (probeOk_ite (ends hs) counts)

/-- A complete byte is stored inside DIAG_BUF; a further one has an index (46_diagnostic.md R278). -/
theorem probeOk_timingByteDone (hs : s.runs .timing) (hidx : s0.diagIdx ≠ 255) (b : Byte) :
    (timingByteDone s0 s b).probeOk .timing := by
  obtain ⟨hmode, hop, hbuf⟩ := hs
  have hlt : s0.diagIdx.toNat < Config.maxFrame := Nat.not_le.mp (mt (maxFrame_le_toNat_iff _).mp hidx)
  have hstored := Memory.wf_write hbuf hlt b
  unfold timingByteDone
  dsimp only
  split
  next hmore =>
    have hmax := frameLen_le ((s.diagBuf.write s0.diagIdx.toNat b).read 0)
    rw [Config.maxFrame] at hmax hlt
    have hnext : s0.diagIdx + 1 ≠ 255 := by bv_omega
    refine probeOk_diagGo ?_ s0 (by decide) (fun _ _ => hnext) 1
    exact ⟨hmode, hop, hstored⟩
  next =>
    refine probeOk_diagGo ?_ s0 (by decide) (fun _ hle => absurd hle (by decide)) 1
    exact ⟨hmode, hop, hstored⟩

theorem State.runs_recordWidth {p : Probe} (hs : s.runs p) (v : Bool) : (State.recordWidth s0 s v).runs p := by
  unfold State.recordWidth
  split <;> split <;> exact hs

theorem State.recordWidth_diagIdx (s0 s : State) (v : Bool) : (State.recordWidth s0 s v).diagIdx = s.diagIdx := by
  unfold State.recordWidth
  split <;> split <;> rfl

theorem probeOk_timingBitDone (hs : s.runs .timing) (hidx : s0.diagIdx ≠ 255) (hsame : s.diagIdx = s0.diagIdx) (v : Bool) :
    (timingBitDone s0 s v).probeOk .timing := by
  have hruns := State.runs_recordWidth (s0 := s0) hs v
  unfold timingBitDone
  dsimp only
  split
  · exact probeOk_timingByteDone hruns hidx _
  · refine probeOk_diagGo ?_ s0 (by decide) (fun _ _ => ?_) 1
    · exact hruns
    · exact (State.recordWidth_diagIdx s0 s v).trans hsame ▸ hidx

/-- Every cycle of DIAG_TIMING counts, goes on to a phase, completes a bit or ends the probe. -/
theorem probeOk_timingStep (hs : s.runs .timing) (hok : s.probeOk .timing) (hphase : s0.diagPhase ∈ probePhases .timing)
    (hidx : s0.diagPhase.toNat ≤ 6 → s0.diagIdx ≠ 255) (hsame : s.diagIdx = s0.diagIdx) :
    (timingStep s0 s).probeOk .timing := by
  have ends {t : State} {st : Status} (ht : t.runs .timing) : (t.endProbe .timing st).probeOk .timing :=
    probeOk_endProbe ht _ _
  have counts : (State.diagCount s0 s).probeOk .timing := hok
  have goes {t : State} {phase : BitVec 4} (ht : t.runs .timing) (hkept : t.diagIdx = s0.diagIdx)
      (hbefore : s0.diagPhase.toNat ≤ 6) (hphase : phase ∈ probePhases .timing) : (State.diagGo s0 t phase 1).probeOk .timing :=
    probeOk_diagGo ht s0 hphase (fun _ _ => hkept ▸ hidx hbefore) 1
  simp only [probePhases, List.mem_cons, List.not_mem_nil, or_false] at hphase
  rcases hphase with e | e | e | e | e | e | e | e <;> rw [e] at hidx goes
  · rw [timingStep_edge s e]
    exact probeOk_ite (ends hs) (probeOk_ite (goes hs hsame (by decide) (by decide)) hok)
  · rw [timingStep_syncLow s e]
    exact probeOk_ite (ends hs) (probeOk_ite (goes hs hsame (by decide) (by decide)) counts)
  · rw [timingStep_syncHigh s e]
    exact probeOk_ite (ends hs) (probeOk_ite counts (goes hs hsame (by decide) (by decide)))
  · rw [timingStep_bsLow s e]
    exact probeOk_ite (ends hs) (probeOk_ite (goes hs hsame (by decide) (by decide)) counts)
  · rw [timingStep_bitLow s e]
    exact probeOk_ite (ends hs) (probeOk_ite (goes hs hsame (by decide) (by decide)) (probeOk_ite (ends hs) counts))
  · rw [timingStep_bitHigh s e]
    exact probeOk_ite (ends hs) (probeOk_ite (probeOk_ite (ends hs) counts)
      (probeOk_timingBitDone hs (hidx (by decide)) hsame _))
  · rw [timingStep_lastGuard s e]
    have trailing : (State.diagGo s0 s phTrailing 1).probeOk .timing :=
      probeOk_diagGo hs s0 (by decide) (fun _ hle => absurd hle (by decide)) 1
    exact probeOk_ite (ends hs) (probeOk_ite trailing (probeOk_ite (ends hs) counts))
  · rw [timingStep_trailing s e]
    exact probeOk_ite (ends hs) (probeOk_ite (ends hs) (probeOk_ite counts (ends hs)))

theorem probeOk_injectHigh (hs : s.runs .yield) (n : Nat) : (State.injectHigh s0 s n).probeOk .yield :=
  probeOk_ite (probeOk_diagGo (s := { s with drvLow := false }) hs s0 (by decide) nofun n)
    (probeOk_diagGo (s := { s with drvLow := true }) hs s0 (by decide) nofun 0)

/-- Every cycle of DIAG_YIELD counts, goes on to a phase, injects or ends the probe. -/
theorem probeOk_yieldStep (hs : s.runs .yield) (hok : s.probeOk .yield) (hphase : s0.diagPhase ∈ probePhases .yield) :
    (yieldStep s0 s).probeOk .yield := by
  have ends {t : State} {st : Status} (ht : t.runs .yield) : (t.endProbe .yield st).probeOk .yield :=
    probeOk_endProbe ht _ _
  have counts : (State.diagCount s0 s).probeOk .yield := hok
  have goes {t : State} {phase : BitVec 4} {n : Nat} (ht : t.runs .yield) (hphase : phase ∈ probePhases .yield) :
      (State.diagGo s0 t phase n).probeOk .yield := probeOk_diagGo ht s0 hphase nofun n
  simp only [probePhases, List.mem_cons, List.not_mem_nil, or_false] at hphase
  rcases hphase with e | e | e | e | e | e | e | e | e | e | e | e
  · rw [yieldStep_edge s e]
    exact probeOk_ite (ends hs) (probeOk_ite (goes hs (by decide)) hok)
  · rw [yieldStep_syncLow s e]
    exact probeOk_ite (ends hs) (probeOk_ite (goes hs (by decide)) (probeOk_ite (goes hs (by decide)) counts))
  · rw [yieldStep_syncHigh s e]
    exact probeOk_ite (ends hs) (probeOk_ite (probeOk_ite (goes hs (by decide)) counts)
      (probeOk_ite (goes hs (by decide)) (goes hs (by decide))))
  · rw [yieldStep_bsLow s e]
    exact probeOk_ite (ends hs) (probeOk_ite (goes hs (by decide)) (probeOk_ite (goes hs (by decide)) counts))
  · rw [yieldStep_bitLow s e]
    exact probeOk_ite (ends hs) (probeOk_ite (goes hs (by decide)) (probeOk_ite (ends hs) counts))
  · rw [yieldStep_bitHigh s e]
    exact probeOk_ite (ends hs) (probeOk_ite (probeOk_ite (ends hs) counts)
      (probeOk_ite (goes hs (by decide)) (goes hs (by decide))))
  · rw [yieldStep_guard s e]
    exact probeOk_ite (ends hs) (probeOk_ite (probeOk_ite (goes hs (by decide))
      (probeOk_injectHigh (s := { s with diagIdx := 0 }) hs 1)) (probeOk_ite (ends hs) counts))
  · rw [yieldStep_injHigh s e]
    exact probeOk_injectHigh hs _
  · rw [yieldStep_injLow s e]
    exact probeOk_ite counts (probeOk_ite (goes hs (by decide)) (goes hs (by decide)))
  · rw [yieldStep_afterHigh s e]
    exact probeOk_ite (probeOk_ite (ends hs) counts) (goes hs (by decide))
  · rw [yieldStep_afterLow s e]
    exact probeOk_ite (ends hs) (probeOk_ite (ends hs) counts)
  · rw [yieldStep_toCeiling s e]
    exact probeOk_ite (ends hs) hok

end

/-- A running probe keeps the invariant. -/
theorem MidCycle.diagStep_safe {s0 s : State} (h : MidCycle s0 s) (hmode : s0.diagMode = true) : (diagStep s0 s).safe := by
  have hcycle : diagCycle s0 s = diagStep s0 s := if_pos hmode
  have hsame : s.diagMode = true ∧ s.diagOp = s0.diagOp ∧ s.diagPhase = s0.diagPhase ∧ s.diagIdx = s0.diagIdx := by
    refine ⟨?_, ?_, ?_, ?_⟩ <;> rw [h.same]
    exact hmode
  obtain ⟨hrunning, hopSame, hphaseSame, hidxSame⟩ := hsame
  obtain ⟨-, -, -, ⟨-, -, -, hprobe⟩, -, -, -, -, hidx, -⟩ := h.begins
  obtain ⟨p, hop, hphase⟩ := hprobe hmode
  obtain ⟨⟨-, -, -, hbuf⟩, -, ⟨-, hmay, -⟩, -⟩ := h.safe
  have hruns : s.runs p := ⟨hrunning, hopSame.trans hop, hbuf⟩
  have hidx : p = .timing → s0.diagPhase.toNat ≤ 6 → s0.diagIdx ≠ 255 := fun htiming => hidx hmode (htiming ▸ hop)
  have hok : s.probeOk p := ⟨hbuf, fun hover => absurd (hrunning.symm.trans hover) Bool.false_ne_true.symm,
    fun _ => ⟨hopSame.trans hop, hphaseSame ▸ hphase, hphaseSame ▸ hidxSame ▸ hidx⟩⟩
  refine safe_of_onlyDiag (p := p) h.safe (hcycle ▸ diagCycle_only s0 s) ?_ (hmay hrunning)
  cases p <;> simp only [diagStep, hop]
  case elec => exact probeOk_elecStep hruns hok hphase
  case timing => exact probeOk_timingStep hruns hok hphase (hidx rfl) hidxSame
  case yield => exact probeOk_yieldStep hruns hok hphase

/-! ### ARB -/

/-- What ARB's step has to show of its own registers. -/
def State.arbOk (t : State) : Prop := t.storedOk ∧ t.arbPlaced

theorem arbOk_ite {t u : State} {c : Prop} [Decidable c] (ht : t.arbOk) (hu : u.arbOk) :
    State.arbOk (if c then t else u) := by
  split
  · exact ht
  · exact hu

section
variable {t : State} (htx : t.txByteidx ≠ 255)
include htx

theorem arbPlaced_waiting (hstate : t.arbState = arbWaitingCode) (hsub : t.arbSub = 0) (hdrv : t.drvLow = false) :
    t.arbPlaced := by
  have hreading {P : Prop} (h : t.arbState = arbReadingCode) : P := absurd (hstate.symm.trans h) (by decide)
  exact ⟨fun h => absurd (hdrv.symm.trans h) Bool.false_ne_true, by rw [hstate]; decide, arbSubDefined_of_zero hsub, htx,
    hreading, hreading⟩

theorem arbPlaced_listening (hstate : t.arbState = arbListeningCode) (hsub : t.arbSub = 0 ∨ t.arbSub = 1)
    (hdrv : t.drvLow = false) : t.arbPlaced := by
  have hreading {P : Prop} (h : t.arbState = arbReadingCode) : P := absurd (hstate.symm.trans h) (by decide)
  have hdefined : t.arbSubDefined = true :=
    hsub.elim arbSubDefined_of_zero (arbSubDefined_of_one (by rw [hstate]; decide))
  exact ⟨fun h => absurd (hdrv.symm.trans h) Bool.false_ne_true, by rw [hstate]; decide, hdefined, htx, hreading, hreading⟩

theorem arbPlaced_transmitting (hstate : t.arbState = arbStartingCode ∨ t.arbState = arbSendingCode)
    (hsub : t.arbSubDefined = true) : t.arbPlaced := by
  have hcode : t.arbState.toNat ≤ 4 ∧ t.arbState ≠ arbReadingCode := by
    rcases hstate with h | h <;> rw [h] <;> decide
  obtain ⟨hle, hne⟩ := hcode
  exact ⟨fun _ => hstate, hle, hsub, htx, fun h => absurd h hne, fun h => absurd h hne⟩

theorem arbPlaced_reading (hstate : t.arbState = arbReadingCode)
    (hsub : t.arbSub = 0 ∧ t.ring ≠ [] ∨ t.arbSub = 1 ∧ t.rdLen ≠ 0) (hdrv : t.drvLow = false) : t.arbPlaced := by
  have hne : (0 : BitVec 2) ≠ 1 := by decide
  refine ⟨fun h => absurd (hdrv.symm.trans h) Bool.false_ne_true, by rw [hstate]; decide, ?_, htx, fun _ h => ?_, fun _ h => ?_⟩
  · exact hsub.elim (fun h => arbSubDefined_of_zero h.1) fun h => arbSubDefined_of_one (by rw [hstate]; decide) h.1
  · exact hsub.elim (fun h => h.2) fun h' => absurd (h.symm.trans h'.1) hne
  · exact hsub.elim (fun h' => absurd (h'.1.symm.trans h) hne) fun h => h.2

end

theorem drvLow_of_arbPlaced {t : State} (h : t.arbPlaced) (hstarting : t.arbState ≠ arbStartingCode)
    (hsending : t.arbState ≠ arbSendingCode) : t.drvLow = false := by
  obtain ⟨hdrv, -⟩ := h
  exact Bool.eq_false_iff.mpr fun h => (hdrv h).elim hstarting hsending

/-- The frame that Waiting takes from OUTQ fits TX_FRAME (44_arbitration.md R220). -/
theorem storedOk_holdFrame {s : State} (h : s.storedOk) {f : List Byte} (hf : FrameSized f) : (s.holdFrame f).storedOk := by
  obtain ⟨⟨hrxBuf, htxFrame, hrest⟩, ⟨hused, hinqLen, houtqLen⟩, hring, hinq, houtq, hwait⟩ := h
  obtain ⟨-, hmax⟩ := hf
  exact ⟨⟨hrxBuf, Memory.wf_writeFrom htxFrame (by rwa [Nat.zero_add]), hrest⟩,
    ⟨hused, hinqLen, Nat.le_trans (List.tail_sublist _).length_le houtqLen⟩, hring, hinq, frameSized_tail houtq, hwait⟩

/-- A cell of the frame is entered in Sending (44_arbitration.md R230). -/
theorem arbOk_enterCell {s0 s : State} (hstored : s.storedOk) {j : Byte} (i : BitVec 3) (hj : j ≠ 255)
    (hstate : s.arbState = arbSendingCode) : (State.enterCell s0 s j i).arbOk :=
  ⟨hstored, arbPlaced_transmitting (t := State.enterCell s0 s j i) hj (.inr hstate) (arbSubDefined_of_zero rfl)⟩

theorem raiseTxStart_events (s0 s : State) : ∃ ev, State.raiseTxStart s0 s = { s with events := ev } := by
  unfold State.raiseTxStart
  split <;> exact ⟨_, rfl⟩

/-- What an agent of the cycle reads of the cycle's beginning is what the calls have left. -/
theorem MidCycle.arb_same {s0 s : State} (h : MidCycle s0 s) : s.ring = s0.ring ∧ s.txHeld = s0.txHeld
    ∧ s.arbState = s0.arbState ∧ s.arbSub = s0.arbSub ∧ s.rdLen = s0.rdLen ∧ s.params = s0.params := by
  refine ⟨?_, ?_, ?_, ?_, ?_, ?_⟩ <;> rw [h.same]

section
variable {s0 s : State} (h : MidCycle s0 s) (hmode : s.diagMode = false)
include h hmode

theorem arbOk_self : s.arbOk := ⟨storedOk_of_safe h.safe, arbPlaced_of_safe h.safe hmode⟩

theorem MidCycle.txByteidx_ne : s.txByteidx ≠ 255 := by
  obtain ⟨-, -, -, htx, -⟩ := arbPlaced_of_safe h.safe hmode
  exact htx

/-- To Waiting with the line released. -/
theorem arbOk_toWaiting (hdrv : s.drvLow = false) (e : Event) : ((s.arbGo arbWaitingCode).raise e).arbOk := by
  have hstored := storedOk_of_safe h.safe
  exact ⟨hstored, arbPlaced_waiting (t := s.arbGo arbWaitingCode) (h.txByteidx_ne hmode) rfl rfl hdrv⟩

/-- ARB counts a cycle of its phase. -/
theorem arbOk_counts (n : Count) (ev : List Raised) : State.arbOk { s with arbCnt := n, events := ev } := by
  have hself := arbOk_self h hmode
  exact hself

theorem arbOk_arbWaiting (hstate : s0.arbState = arbWaitingCode) : (arbWaiting s0 s).arbOk := by
  obtain ⟨hring, -, hstateSame, -⟩ := h.arb_same
  have hstored := storedOk_of_safe h.safe
  have htx := h.txByteidx_ne hmode
  have hdrv : s.drvLow = false := drvLow_of_arbPlaced (arbPlaced_of_safe h.safe hmode)
    (by rw [hstateSame, hstate]; decide) (by rw [hstateSame, hstate]; decide)
  cases hq : s0.ring with
  | cons f q =>
    have hne : s0.ring ≠ [] := hq ▸ List.cons_ne_nil f q
    rw [arbWaiting_of_ring s hne]
    exact ⟨hstored, arbPlaced_reading htx rfl (.inl ⟨rfl, hring ▸ hne⟩) hdrv⟩
  | nil =>
    cases hheld : s0.txHeld with
    | true =>
      rw [arbWaiting_of_held s hq hheld]
      exact ⟨hstored, arbPlaced_listening htx rfl (.inl rfl) hdrv⟩
    | false =>
      cases houtq : s0.outq with
      | nil =>
        rw [arbWaiting_of_idle s hq hheld houtq]
        exact arbOk_self h hmode
      | cons f q =>
        obtain ⟨-, -, -, -, houtqSized, -⟩ := storedOk_of_safe h.begins
        have hf : FrameSized f := houtqSized f (houtq ▸ List.mem_cons_self)
        rw [arbWaiting_of_outq s hq hheld houtq]
        exact ⟨storedOk_holdFrame hstored hf, arbPlaced_listening (t := (s.holdFrame f).arbGo _) htx rfl (.inl rfl) hdrv⟩

theorem arbOk_arbListening (hstate : s0.arbState = arbListeningCode) : (arbListening s0 s).arbOk := by
  obtain ⟨-, -, hstateSame, -⟩ := h.arb_same
  have hstored := storedOk_of_safe h.safe
  have htx := h.txByteidx_ne hmode
  have hdrv : s.drvLow = false := drvLow_of_arbPlaced (arbPlaced_of_safe h.safe hmode)
    (by rw [hstateSame, hstate]; decide) (by rw [hstateSame, hstate]; decide)
  have hlistens := hstateSame.trans hstate
  have backs : ∀ n, State.arbOk { s with notify := false, arbCnt := n, arbSub := 1 } := fun n =>
    ⟨hstored, arbPlaced_listening htx hlistens (.inr rfl) hdrv⟩
  have starts : (State.enterStarting s0 s).arbOk :=
    ⟨hstored, arbPlaced_transmitting (t := State.enterStarting s0 s) htx (.inl rfl) rfl⟩
  have waits := arbOk_toWaiting h hmode hdrv
  exact arbOk_ite (arbOk_ite (waits _) (arbOk_ite starts (arbOk_counts h hmode _ _))) (arbOk_ite (backs _) (waits _))

theorem arbOk_arbStarting (hstate : s0.arbState = arbStartingCode) : (arbStarting s0 s).arbOk := by
  obtain ⟨-, -, hstateSame, -⟩ := h.arb_same
  have hstarting := hstateSame.trans hstate
  have hcode : s.arbState.toNat = 2 := by rw [hstarting]; rfl
  have hstored := storedOk_of_safe h.safe
  have htx := h.txByteidx_ne hmode
  have high : ∀ n ev, State.arbOk { s with arbSub := 1, arbCnt := n, drvLow := false, events := ev } := fun n ev =>
    ⟨hstored, arbPlaced_transmitting htx (.inl hstarting) (arbSubDefined_of_one (by rw [hcode]; decide) rfl)⟩
  have low : ∀ n, State.arbOk { s with arbSub := 2, arbCnt := n, drvLow := true } := fun n =>
    ⟨hstored, arbPlaced_transmitting htx (.inl hstarting) (arbSubDefined_of_two hcode rfl)⟩
  have sends : (State.enterCell s0 { s with arbState := arbSendingCode } 0 7).arbOk :=
    arbOk_enterCell (s := { s with arbState := arbSendingCode }) hstored 7 (by decide) rfl
  have counts := arbOk_counts h hmode
  have syncLow : (startSyncLow s0 s).arbOk := by
    obtain ⟨ev, hraised⟩ := raiseTxStart_events s0 s
    rw [startSyncLow, hraised]
    exact arbOk_ite (counts _ _) (high _ _)
  exact arbOk_ite (arbOk_ite (counts _ _) (low _)) (arbOk_ite (arbOk_ite (counts _ _) sends) syncLow)

/-- Behind the guard: the line is only released after the frame's last cell, and a further byte is one that TX_FRAME has
(44_arbitration.md R229, R230). -/
theorem arbOk_guardEnd (hstate : s0.arbState = arbSendingCode) : (guardEnd s0 s).arbOk := by
  obtain ⟨-, -, hstateSame, -⟩ := h.arb_same
  have hsending := hstateSame.trans hstate
  have hstored := storedOk_of_safe h.safe
  obtain ⟨-, -, hsub, htx, -⟩ := arbPlaced_of_safe h.safe hmode
  obtain ⟨-, -, -, -, -, -, -, htx0, -⟩ := h.begins
  by_cases hbit : s0.txBitidx.toNat = 0
  · by_cases hlen : s0.txByteidx.toNat + 1 < s0.txLen.toNat
    · rw [guardEnd_of_byte s hbit hlen]
      have hlt := s0.txLen.isLt
      exact arbOk_enterCell hstored 7 (by bv_omega) hsending
    · rw [guardEnd_of_last s hbit (Nat.not_lt.mp hlen)]
      exact ⟨hstored, arbPlaced_transmitting (t := { s with arbCnt := 0, drvLow := false }) htx (.inr hsending) hsub⟩
  · rw [guardEnd_of_bit s hbit]
    exact arbOk_enterCell hstored _ htx0 hsending

theorem arbOk_arbSending (hstate : s0.arbState = arbSendingCode) : (arbSending s0 s).arbOk := by
  obtain ⟨-, -, hstateSame, -⟩ := h.arb_same
  have hsending := hstateSame.trans hstate
  have hcode : s.arbState.toNat ≠ 0 := by rw [hsending]; decide
  have hstored := storedOk_of_safe h.safe
  have htx := h.txByteidx_ne hmode
  have counts := arbOk_counts h hmode
  have collides (ev : List Raised) : State.arbOk { s with events := ev }.toListening :=
    ⟨hstored, arbPlaced_listening (t := s.toListening) htx rfl (.inl rfl) rfl⟩
  have done : s.sendDone.arbOk := ⟨hstored, arbPlaced_waiting (t := s.sendDone) htx rfl rfl rfl⟩
  have guards : ∀ n, State.arbOk { s with arbSub := 1, arbCnt := n, drvLow := true } := fun n =>
    ⟨hstored, arbPlaced_transmitting htx (.inr hsending) (arbSubDefined_of_one hcode rfl)⟩
  have high : (sendHigh s0 s).arbOk :=
    arbOk_ite (collides _) (arbOk_ite (collides _) (arbOk_ite (arbOk_ite (guards _) (counts 0 _)) (counts _ _)))
  have guard : (sendGuard s0 s).arbOk :=
    arbOk_ite (arbOk_ite done (collides _)) (arbOk_ite (arbOk_guardEnd h hmode hstate) (counts _ _))
  exact arbOk_ite guard high

/-- The capture that Reading pops fits RD_FRAME and leaves RD_LEN its length (44_arbitration.md R234). -/
theorem arbOk_readPop (hstate : s0.arbState = arbReadingCode) (hdrv : s.drvLow = false) : (readPop s0 s).arbOk := by
  obtain ⟨hringSame, -, hstateSame, -⟩ := h.arb_same
  obtain ⟨⟨hrxBuf, htxFrame, hrdFrame, hdiagBuf⟩, ⟨hused, hinqLen, houtqLen⟩, hring, hinq, houtq, hwait⟩ :=
    storedOk_of_safe h.safe
  unfold readPop
  split
  next f q hq =>
    obtain ⟨hmin, hmax⟩ : FrameSized f := hring f (by rw [hringSame, hq]; exact List.mem_cons_self)
    have hfits : 0 + f.length ≤ Config.maxFrame := by rwa [Nat.zero_add]
    have hlen : BitVec.ofNat 8 f.length ≠ 0 := by
      rw [Config.maxFrame] at hmax
      bv_omega
    exact ⟨⟨⟨hrxBuf, htxFrame, Memory.wf_writeFrom hrdFrame hfits, hdiagBuf⟩,
        ⟨Nat.le_trans (ringUsed_tail_le _) hused, hinqLen, houtqLen⟩, frameSized_tail hring, hinq, houtq, hwait⟩,
      arbPlaced_reading (h.txByteidx_ne hmode) (hstateSame.trans hstate) (.inr ⟨rfl, hlen⟩) hdrv⟩
  next => exact arbOk_self h hmode

/-- A popped capture is pushed where INQ had room at the start of the cycle (44_arbitration.md R235). -/
theorem arbOk_readWait (hstate : s0.arbState = arbReadingCode) (hsub : s0.arbSub = 1) (hdrv : s.drvLow = false) :
    (readWait s0 s).arbOk := by
  obtain ⟨-, -, -, -, -, hparams⟩ := h.arb_same
  obtain ⟨hstorage, ⟨hused, hinqLen, houtqLen⟩, hring, hinq, houtq, hwait⟩ := storedOk_of_safe h.safe
  unfold readWait
  split
  next hroom =>
    obtain ⟨-, -, -, -, -, -, -, -, -, -, hpopped⟩ := h.begins
    have hne := hpopped hstate hsub
    have hlt := s0.rdLen.isLt
    have hsized : FrameSized (s0.rdFrame.take s0.rdLen.toNat) :=
      frameSized_take _ ⟨by bv_omega, by rw [Config.maxFrame]; omega⟩
    have hroom : (s.inq ++ [s0.rdFrame.take s0.rdLen.toNat]).length ≤ s.params.inqDepth := by
      rw [List.length_append, List.length_singleton, hparams]
      exact Nat.lt_of_le_of_lt h.inq (of_decide_eq_true hroom)
    exact ⟨⟨hstorage, ⟨hused, hroom, houtqLen⟩, hring, frameSized_push hinq hsized, houtq, hwait⟩,
      arbPlaced_waiting (t := s.arbGo arbWaitingCode) (h.txByteidx_ne hmode) rfl rfl hdrv⟩
  next => exact arbOk_ite (arbOk_toWaiting h hmode hdrv _) (arbOk_counts h hmode _ _)

theorem arbOk_arbReading (hstate : s0.arbState = arbReadingCode) : (arbReading s0 s).arbOk := by
  obtain ⟨-, -, hstateSame, -⟩ := h.arb_same
  have hdrv : s.drvLow = false := drvLow_of_arbPlaced (arbPlaced_of_safe h.safe hmode)
    (by rw [hstateSame, hstate]; decide) (by rw [hstateSame, hstate]; decide)
  unfold arbReading
  split
  next hsub => exact arbOk_readWait h hmode hstate hsub hdrv
  next => exact arbOk_readPop h hmode hstate hdrv

end

/-- A step of ARB keeps the invariant. -/
theorem MidCycle.arbStep_safe {s0 s : State} {lock : Bool} (h : MidCycle s0 s) (hruns : s0.arbRuns lock = true) :
    (arbStep s0 s).safe := by
  obtain ⟨hrx, hmode⟩ := agents_idle_of_arbRuns hruns
  have hcfg : s0.cfgValid = true := by
    simp only [State.arbRuns, Bool.and_eq_true] at hruns
    exact hruns.1
  have hsame : s.cfgValid = true ∧ s.rxActive = false ∧ s.diagMode = false := by
    refine ⟨?_, ?_, ?_⟩ <;> rw [h.same]
    · exact hcfg
    · exact hrx
    · exact hmode
  obtain ⟨hconfigured, hquiet, hnoProbe⟩ := hsame
  obtain ⟨-, -, -, ⟨hstate, hsub, -⟩, -⟩ := h.begins
  have code {c : BitVec 3} (e : s0.arbState.toNat = c.toNat) : s0.arbState = c := BitVec.eq_of_toNat_eq e
  have hok : (arbStep s0 s).arbOk := by
    rcases arbState_reachable hstate with e | e | e | e | e <;> simp only [arbStep, e, arbRun_defined _ s0 s hsub]
    · exact arbOk_arbWaiting h hnoProbe (code e)
    · exact arbOk_arbListening h hnoProbe (code e)
    · exact arbOk_arbStarting h hnoProbe (code e)
    · exact arbOk_arbSending h hnoProbe (code e)
    · exact arbOk_arbReading h hnoProbe (code e)
  obtain ⟨hstored, hplaced⟩ := hok
  exact safe_of_onlyArb h.safe (arbStep_only s0 s) hstored hplaced hconfigured hquiet hnoProbe

end Sys2Proof.Machine
end

section
/-! SUPPORT. Obligation O7, the step: the calls of a cycle and the agents around them, and the operations that run on their
own. -/

namespace Sys2Proof.Machine

/-! ### The calls of a cycle -/

/-- No reception runs or starts, and no probe runs. -/
def LineIdle (s : State) : Prop := s.rxActive = false ∧ s.trig = false ∧ s.diagMode = false

/-- What the agents decide on is as it was in `s0`, or HOSTLOCK is set in a cycle in which RX and DIAG have nothing to do. -/
def AgentsUndisturbed (s0 s : State) : Prop :=
  OnlyHost { s0 with hostLock := s.hostLock } s ∧ s.inq.length ≤ s0.inq.length ∨ s.hostLock = true ∧ LineIdle s0

/-- After the calls of a clock cycle that began in `s0`: a SUBMIT that waited then still waits, with the room it had. -/
structure Prepared (s0 s : State) : Prop where
  safe : s.safe
  params : s.params = s0.params
  waits : s0.subWait ≠ none → s.subWait ≠ none ∧ s.outq.length ≤ s0.outq.length
  agents : AgentsUndisturbed s0 s

theorem Prepared.refl {s : State} (h : s.safe) : Prepared s s :=
  ⟨h, rfl, fun hwait => ⟨hwait, Nat.le_refl _⟩, .inl ⟨rfl, Nat.le_refl _⟩⟩

/-! ### The waiting calls -/

/-- A RETRIEVE only takes a frame of INQ. -/
theorem retrieveCycle_safe (s0 : State) {s : State} (hs : s.safe) : (retrieveCycle s0 s).safe ∧
    (retrieveCycle s0 s).inq.length ≤ s.inq.length := by
  have hpop (b : List Byte) : (s.retrievePop b).safe ∧ (s.retrievePop b).inq.length ≤ s.inq.length := by
    obtain ⟨-, ⟨-, hinqLen, houtqLen⟩, -, hinq, houtq, hwait⟩ := storedOk_of_safe hs
    have hle : s.inq.tail.length ≤ s.inq.length := (List.tail_sublist _).length_le
    exact ⟨safe_of_onlyHost hs rfl (Nat.le_trans hle hinqLen) houtqLen (frameSized_tail hinq) houtq hwait, hle⟩
  unfold retrieveCycle
  split
  · split
    · exact hpop _
    · exact ⟨hs, Nat.le_refl _⟩
  · exact ⟨hs, Nat.le_refl _⟩

/-- A frame pushed where OUTQ has room. -/
theorem submitPush_safe {s : State} (hs : s.safe) {b : List Byte} (hb : FrameSized b)
    (hroom : s.outq.length < s.params.outqDepth) : (s.submitPush b).safe := by
  obtain ⟨-, ⟨-, hinqLen, -⟩, -, hinq, houtq, -⟩ := storedOk_of_safe hs
  have hlen : (s.outq ++ [b]).length ≤ s.params.outqDepth := by
    rw [List.length_append, List.length_singleton]
    exact hroom
  exact safe_of_onlyHost hs rfl hinqLen hlen hinq (frameSized_push houtq hb) nofun

/-- A SUBMIT that waits, for a frame of its own. -/
theorem subWait_safe {s : State} (hs : s.safe) {w : Option Waiting} (hw : ∀ v, w = some v → FrameSized v.frame) :
    State.safe { s with subWait := w } := by
  obtain ⟨-, ⟨-, hinqLen, houtqLen⟩, -, hinq, houtq, -⟩ := storedOk_of_safe hs
  exact safe_of_onlyHost hs rfl hinqLen houtqLen hinq houtq hw

theorem submitWaits_safe {s : State} (hs : s.safe) {w : Waiting} (hw : FrameSized w.frame) : (submitWaits s w).safe := by
  unfold submitWaits
  split
  · exact hs
  · split
    · exact subWait_safe (w := none) hs nofun
    · refine subWait_safe hs fun v hv => ?_
      cases hv
      exact hw

/-- The attempt of a waiting SUBMIT finds the room that it had at the start of the cycle. -/
theorem submitCycle_safe {s0 s : State} (h0 : s0.safe) (hs : s.safe) (hparams : s.params = s0.params)
    (hroom : s0.subWait ≠ none → s.outq.length ≤ s0.outq.length) : (submitCycle s0 s).safe := by
  obtain ⟨-, -, -, -, -, hwait⟩ := storedOk_of_safe h0
  cases hw : s0.subWait with
  | none =>
    simp only [submitCycle, hw]
    exact hs
  | some w =>
    cases hfull : s0.outqRoom with
    | true =>
      rw [submitCycle_of_room s hw hfull]
      refine submitPush_safe hs (hwait w hw) ?_
      rw [hparams]
      exact Nat.lt_of_le_of_lt (hroom (by simp [hw])) (of_decide_eq_true hfull)
    | false =>
      rw [submitCycle_of_full s hw hfull]
      exact submitWaits_safe hs (hwait w hw)

section
variable {s0 s : State} (h0 : s0.safe) (h : Prepared s0 s)
include h

theorem Prepared.hostCycle_inq : (hostCycle s0 s).inq.length ≤ s.inq.length := by
  obtain ⟨hinq, -⟩ := submitCycle_keeps s0 (retrieveCycle s0 s)
  rw [hostCycle, hinq]
  exact (retrieveCycle_safe s0 h.safe).2

include h0

/-- The waiting calls keep the invariant. -/
theorem Prepared.hostCycle_safe : (hostCycle s0 s).safe := by
  obtain ⟨hretrieved, -⟩ := retrieveCycle_safe s0 h.safe
  obtain ⟨houtq, -⟩ := retrieveCycle_keeps s0 s
  have hparams : (retrieveCycle s0 s).params = s0.params := by
    rw [← h.params]
    unfold retrieveCycle
    split
    · split <;> rfl
    · rfl
  exact submitCycle_safe h0 hretrieved hparams fun hwait => houtq ▸ (h.waits hwait).2

end

/-! ### The clock cycle -/

/-- RX, ARB and DIAG exclude each other, and each keeps the invariant (44_arbitration.md R216, R217). -/
theorem MidCycle.agents_safe {s0 s : State} (h : MidCycle s0 s) :
    (diagCycle s0 (arbCycle s0 (rxCycle s0 s))).safe := by
  cases hmode : s0.diagMode with
  | true =>
    obtain ⟨-, -, ⟨-, hprobe, -⟩, -⟩ := h.begins
    obtain ⟨-, -, hrx⟩ := hprobe hmode
    have hrxStill : rxCycle s0 s = s := by simp [rxCycle, hrx, trig_busy s0 (.inl hmode)]
    rw [hrxStill, arbCycle_still s0 s (arbRuns_busy s0 _ (.inl hmode)), diagCycle, if_pos hmode]
    exact h.diagStep_safe hmode
  | false =>
    rw [diagCycle_still s0 _ hmode]
    cases hrx : s0.rxActive with
    | true =>
      rw [arbCycle_still s0 _ (arbRuns_busy s0 _ (.inr hrx)), rxCycle, if_pos hrx]
      exact h.rxStep_safe hrx
    | false =>
      cases htrig : s0.trig with
      | true =>
        rw [arbCycle_still s0 _ ((arbRuns_eq_false_iff s0 _).mpr (.inr (.inr (.inl htrig))))]
        have hedge : rxCycle s0 s = s.takeEdge := by simp [rxCycle, hrx, htrig]
        exact hedge ▸ h.takeEdge_safe htrig
      | false =>
        have hrxStill : rxCycle s0 s = s := by simp [rxCycle, hrx, htrig]
        rw [hrxStill, arbCycle]
        split
        next hruns => exact h.arbStep_safe hruns
        next => exact h.safe

/-- A clock cycle keeps the invariant, whatever calls are issued in it. -/
theorem Prepared.clock_safe {s0 s : State} (h0 : s0.safe) (h : Prepared s0 s) : (clock s0 s).safe := by
  have hhost := h.hostCycle_safe h0
  have honly := hostCycle_only s0 s
  show (diagCycle s0 (arbCycle s0 (rxCycle s0 (hostCycle s0 s)))).safe
  rcases h.agents with ⟨hsame, hinq⟩ | ⟨hlock, hrx, htrig, hmode⟩
  · have hmid : OnlyHost { s0 with hostLock := (hostCycle s0 s).hostLock } (hostCycle s0 s) := by
      have hlock : (hostCycle s0 s).hostLock = s.hostLock := by rw [honly]
      rw [hlock]
      exact hsame.trans honly
    exact MidCycle.agents_safe ⟨h0, hhost, hmid, Nat.le_trans h.hostCycle_inq hinq⟩
  · have hrxStill : rxCycle s0 (hostCycle s0 s) = hostCycle s0 s := by simp [rxCycle, hrx, htrig]
    have harb : s0.arbRuns (hostCycle s0 s).hostLock = false := by
      rw [honly, arbRuns_eq_false_iff]
      simp [hlock]
    rw [hrxStill, arbCycle_still s0 _ harb, diagCycle_still s0 _ hmode]
    exact hhost

/-! ### Calls of one cycle -/

theorem AgentsUndisturbed.onlyHost {s0 s t : State} (h : AgentsUndisturbed s0 s) (honly : OnlyHost s t)
    (hinq : t.inq.length ≤ s.inq.length) : AgentsUndisturbed s0 t := by
  have hlock : t.hostLock = s.hostLock := by rw [honly]
  refine h.imp (fun ⟨hsame, hle⟩ => ⟨?_, Nat.le_trans hinq hle⟩) fun ⟨hset, hidle⟩ => ⟨hlock.trans hset, hidle⟩
  rw [hlock]
  exact hsame.trans honly

/-- Where the calls so far have left RX and DIAG without anything to do, the cycle began so. -/
theorem AgentsUndisturbed.lineIdle {s0 s : State} (h : AgentsUndisturbed s0 s) (hidle : LineIdle s) : LineIdle s0 := by
  rcases h with ⟨hsame, -⟩ | ⟨-, hidle0⟩
  · rw [hsame] at hidle
    exact hidle
  · exact hidle0

/-- Before INIT nothing runs (10_state.md R23). -/
theorem lineIdle_of_unconfigured {s : State} (hs : s.safe) (hcfg : s.cfgValid = false) : LineIdle s := by
  obtain ⟨-, -, ⟨-, hprobe, hreception, -⟩, -⟩ := hs
  have hnot {P : Prop} (h : s.cfgValid = true) : P := absurd (hcfg.symm.trans h) Bool.false_ne_true
  refine ⟨Bool.eq_false_iff.mpr fun hrx => hnot (hreception hrx).1, Bool.eq_false_iff.mpr fun htrig => ?_,
    Bool.eq_false_iff.mpr fun hmode => hnot (hprobe hmode).1⟩
  obtain ⟨hconfigured, -⟩ := (trig_iff s).mp htrig
  exact hnot hconfigured

section
variable {s0 s : State} (h : Prepared s0 s)
include h

/-- An answer and its event. -/
theorem Prepared.answers (ev : List Raised) (rs : List Reply) : Prepared s0 { s with events := ev, replies := rs } where
  safe := h.safe
  params := h.params
  waits := h.waits
  agents := h.agents.onlyHost rfl (Nat.le_refl _)

theorem prepared_execSubmit (b : List Byte) (w : Wait) : Lands (Prepared s0) (execSubmit b w s) := by
  unfold execSubmit
  split
  next => trivial
  next hfree =>
    have hnone : s.subWait = none := by simpa using hfree
    have hfirst {P : Prop} (hwait : s0.subWait ≠ none) : P := absurd hnone (h.waits hwait).1
    split
    next => exact h.answers _ _
    next =>
      split
      next => exact h.answers _ _
      next hfits =>
        have hsized : FrameSized b := fitsTag_length (eq_true_of_ne_false hfits)
        split
        next hroom => exact ⟨submitPush_safe h.safe hsized (of_decide_eq_true hroom), h.params, hfirst,
          h.agents.onlyHost rfl (Nat.le_refl _)⟩
        next =>
          split
          next => exact ⟨subWait_safe (w := none) h.safe nofun, h.params, hfirst, h.agents.onlyHost rfl (Nat.le_refl _)⟩
          next =>
            refine ⟨subWait_safe h.safe fun v hv => ?_, h.params, hfirst, h.agents.onlyHost rfl (Nat.le_refl _)⟩
            cases hv
            exact hsized

theorem prepared_execRetrieve : Lands (Prepared s0) (execRetrieve s) := by
  unfold execRetrieve
  split
  next => trivial
  next =>
    split
    next => exact h.answers _ _
    next =>
      split
      next b q hinq =>
        obtain ⟨-, ⟨-, hinqLen, houtqLen⟩, -, hinqSized, houtqSized, hwait⟩ := storedOk_of_safe h.safe
        have hle : s.inq.tail.length ≤ s.inq.length := (List.tail_sublist _).length_le
        exact ⟨safe_of_onlyHost (t := s.retrievePop b) h.safe rfl (Nat.le_trans hle hinqLen) houtqLen
          (frameSized_tail hinqSized) houtqSized hwait, h.params, h.waits, h.agents.onlyHost rfl hle⟩
      next =>
        split
        next => exact ⟨h.safe, h.params, h.waits, h.agents.onlyHost rfl (Nat.le_refl _)⟩
        next => exact h.answers _ _

end

/-- A successful INIT leaves a block that waits with the line released (45_host_ops.md R252). -/
theorem configure_safe {s : State} (hs : s.safe) (hidle : LineIdle s) {m : BusMode} (haddr : m.addr ≠ 0) :
    (s.configure m).safe := by
  obtain ⟨hstorage, -, -, -, ⟨-, -, -, hwait⟩, -, -, htx, -⟩ := hs
  obtain ⟨hrx, -, hmode⟩ := hidle
  have hquiet {P : Prop} (h : s.rxActive = true) : P := absurd (hrx.symm.trans h) Bool.false_ne_true
  have hnoProbe {P : Prop} (h : s.diagMode = true) : P := absurd (hmode.symm.trans h) Bool.false_ne_true
  have hwaiting {P : Prop} (h : arbWaitingCode = arbReadingCode) : P := absurd h (by decide)
  exact ⟨hstorage, ⟨Nat.zero_le _, Nat.zero_le _, Nat.zero_le _⟩,
    ⟨fun h => absurd h Bool.false_ne_true, hnoProbe, hquiet, fun _ => rfl, fun _ => haddr⟩,
    ⟨Nat.zero_le _, rfl, hquiet, hnoProbe⟩, ⟨nofun, nofun, nofun, hwait⟩, hquiet, hquiet, htx, hnoProbe, hwaiting, hwaiting⟩

/-- An accepted probe has its first phase to run (46_diagnostic.md R270). -/
theorem probeOk_acceptProbe {s : State} (hs : s.safe) (p : Probe) : (s.acceptProbe p).probeOk p := by
  obtain ⟨⟨-, -, -, hbuf⟩, -⟩ := hs
  have hphase : (1 : BitVec 4) ∈ probePhases p := by cases p <;> decide
  have hidx : (0 : Byte) ≠ 255 := by decide
  exact ⟨hbuf, fun h => absurd h Bool.false_ne_true.symm, fun _ => ⟨rfl, hphase, fun _ _ => hidx⟩⟩

section
variable {s0 s : State} (h : Prepared s0 s)
include h

theorem prepared_execInit (m : BusMode) : Lands (Prepared s0) (execInit m s) := by
  unfold execInit
  split
  next hok =>
    have haddr : m.addr ≠ 0 := fun haddr => nomatch (State.initStatus_of_addr_zero haddr).symm.trans hok
    have hpin : s.inputNow.pinOk = true := by
      refine eq_true_of_ne_false fun hpin => ?_
      exact nomatch (State.initStatus_of_unfit_pin haddr hpin).symm.trans hok
    have hfree : s.busy = false := by
      rw [State.initStatus_of_fit haddr hpin] at hok
      refine Bool.eq_false_iff.mpr fun hbusy => ?_
      rw [if_pos hbusy] at hok
      cases hok
    have hidle : LineIdle s := by
      cases hcfg : s.cfgValid with
      | false => exact lineIdle_of_unconfigured h.safe hcfg
      | true =>
        simp only [State.busy, hcfg, Bool.true_and, Bool.or_eq_false_iff] at hfree
        obtain ⟨⟨⟨⟨-, hrx⟩, htrig⟩, hmode⟩, -⟩ := hfree
        exact ⟨hrx, htrig, hmode⟩
    have hwaits (hwait : s0.subWait ≠ none) := (h.waits hwait).1
    exact ⟨configure_safe h.safe hidle haddr, h.params, fun hwait => ⟨hwaits hwait, Nat.zero_le _⟩,
      .inr ⟨rfl, h.agents.lineIdle hidle⟩⟩
  next => exact h.answers _ _

theorem prepared_issueProbe {p : Probe} {start : State → State} (honly : ∀ u, OnlyDiag u (start u))
    (hok : (start (s.acceptProbe p)).probeOk p) : Lands (Prepared s0) (issueProbe p start s) := by
  unfold issueProbe
  split
  next haccept =>
    have hcfg : s.cfgValid = true := by
      refine eq_true_of_ne_false fun hcfg => ?_
      rw [State.probeStatus, if_pos hcfg] at haccept
      cases haccept
    have hfree : ¬ s.probeBusy = true := fun hbusy => by
      simp [State.probeStatus, hcfg, hbusy] at haccept
    simp only [probeBusy_iff, not_or, ne_eq, Decidable.not_not, Bool.not_eq_true] at hfree
    obtain ⟨hstate, hrx, htrig, hmode⟩ := hfree
    have hmay : s.cfgValid = true ∧ s.arbState = arbWaitingCode ∧ s.rxActive = false := ⟨hcfg, hstate, hrx⟩
    have haccepted : (s.acceptProbe p).safe :=
      safe_of_onlyDiag (t := { s.acceptProbe p with hostLock := s.hostLock }) h.safe rfl (probeOk_acceptProbe h.safe p) hmay
    have honly := honly (s.acceptProbe p)
    have hsame : (start (s.acceptProbe p)).params = s.params ∧ (start (s.acceptProbe p)).subWait = s.subWait
        ∧ (start (s.acceptProbe p)).outq = s.outq ∧ (start (s.acceptProbe p)).hostLock = true := by
      refine ⟨?_, ?_, ?_, ?_⟩ <;> rw [honly] <;> rfl
    obtain ⟨hparams, hwait, houtq, hlock⟩ := hsame
    exact ⟨safe_of_onlyDiag haccepted honly hok hmay, hparams.trans h.params, hwait ▸ houtq ▸ h.waits,
      .inr ⟨hlock, h.agents.lineIdle ⟨hrx, htrig, hmode⟩⟩⟩
  next => exact h.answers _ _

/-- Every operation of one cycle leaves the cycle to the agents as they need it. -/
theorem prepared_exec {i : Instr} (hk : kindOf i = .call) : Lands (Prepared s0) (exec i s) := by
  have hok (p : Probe) := probeOk_acceptProbe h.safe p
  cases i with
  | validate | readStatus => exact h.answers _ _
  | init m => exact prepared_execInit h m
  | submit b w => exact prepared_execSubmit h b w
  | retrieve => exact prepared_execRetrieve h
  | diagElec =>
    obtain ⟨hbuf, -, hruns⟩ := hok .elec
    exact prepared_issueProbe h (fun _ => rfl) ⟨hbuf, fun hover => absurd hover Bool.false_ne_true.symm, hruns⟩
  | diagTiming => exact prepared_issueProbe h (fun _ => rfl) (hok .timing)
  | diagYield => exact prepared_issueProbe h (fun _ => rfl) (hok .yield)
  | _ => cases hk

theorem prepared_execAll {is : List Instr} (hk : ∀ i ∈ is, kindOf i = .call) : Lands (Prepared s0) (execAll is s) := by
  induction is generalizing s with
  | nil => exact h
  | cons i r ih =>
    obtain ⟨hi, hr⟩ := List.forall_mem_cons.mp hk
    exact (prepared_exec h hi).andThen fun t ht => ih ht hr

theorem prepared_badOps (cs : List Call) : Prepared s0 (badOps cs s) := by
  unfold badOps
  induction cs generalizing s with
  | nil => exact h
  | cons c cs ih =>
    refine ih ?_
    dsimp only
    split
    · exact h.answers _ _
    · exact h

end

theorem kindOf_eq_call_of_host {i : Instr} (h : issuerOf i = .host) : kindOf i = .call := by
  cases i with
  | validate | init | submit | retrieve | readStatus | diagElec | diagTiming | diagYield => rfl
  | _ => cases h

theorem hostCalls_safe {s : State} (hs : s.safe) (cs : List Call) : Lands State.safe (hostCalls cs s) := by
  have hkind : ∀ i ∈ inOrder (cs.filterMap hostOp), kindOf i = .call := by
    intro i hi
    obtain ⟨c, -, hc⟩ := List.mem_filterMap.mp (mem_of_mem_inOrder hi)
    exact kindOf_eq_call_of_host (issuerOf_of_hostOp hc)
  simp only [hostCalls]
  split
  · trivial
  · exact (prepared_execAll (prepared_badOps (.refl hs) cs) hkind).andThen fun t ht => lands_clockOut (ht.clock_safe hs)

/-! ### ARB's operations -/

/-- The operation of ARB_STATE is ARB's step, which leaves the rest of the cycle to the waiting calls. -/
theorem prepared_arbOperation {s : State} (hs : s.safe) {code : BitVec 3} {op : State → State → State}
    (hop : s.arbState = code → arbRun op s s = arbStep s s) :
    Lands (fun t => Prepared s { t with hostLock := true }) (arbOperation code op s) := by
  unfold arbOperation
  split
  next hown =>
    rw [Bool.and_eq_true, beq_iff_eq] at hown
    obtain ⟨hruns, hstate⟩ := hown
    split
    · trivial
    · rw [hop hstate]
      obtain ⟨hrx, hmode⟩ := agents_idle_of_arbRuns hruns
      have hsafe := (MidCycle.refl hs).arbStep_safe hruns
      obtain ⟨-, -, -, ⟨-, hsub, -⟩, -⟩ := hs
      have hsame : (arbStep s s).params = s.params ∧ (arbStep s s).subWait = s.subWait := by
        constructor <;> rw [arbStep_only]
      obtain ⟨hparams, hwait⟩ := hsame
      have houtq : (arbStep s s).outq.length ≤ s.outq.length := by
        rw [arbStep_outq hsub]
        split
        · exact (List.tail_sublist _).length_le
        · exact Nat.le_refl _
      exact ⟨hsafe, hparams, fun h => ⟨hwait ▸ h, houtq⟩, .inr ⟨rfl, hrx, trig_eq_false_of_arbRuns hruns, hmode⟩⟩
  next => exact ⟨hs, rfl, fun h => ⟨h, Nat.le_refl _⟩, .inl ⟨rfl, Nat.le_refl _⟩⟩

theorem prepared_exec_arb {s : State} (hs : s.safe) {i : Instr} (hk : kindOf i = .arb) :
    Lands (fun t => Prepared s { t with hostLock := true }) (exec i s) := by
  cases i with
  | arbWaiting | arbListening | arbStarting | arbSending | arbReading =>
    refine prepared_arbOperation hs fun hstate => ?_
    rw [arbStep, hstate]
    rfl
  | _ => cases hk

/-! ### Operations that run on their own -/

/-- No rule of the invariant speaks of time, and the line may be released at any time. -/
theorem OnlyTimePassed.safe {s t : State} (h : OnlyTimePassed s t) (hs : s.safe) : t.safe := by
  rw [h.1]
  exact hs

theorem released_safe {s : State} (hs : s.safe) {j : Byte} (hj : j ≠ 255) :
    State.safe { s with drvLow := false, txByteidx := j } := by
  obtain ⟨hstorage, hfifos, ⟨-, howned⟩, hcodes, helements, hrxIdx, hrxLen, -, hindices⟩ := hs
  exact ⟨hstorage, hfifos, ⟨fun h => absurd h Bool.false_ne_true, howned⟩, hcodes, helements, hrxIdx, hrxLen, hj, hindices⟩

theorem OnlyLineDriven.safe {s t : State} (h : OnlyLineDriven s t) (hs : s.safe) : t.safe := by
  have hj : s.txByteidx ≠ 255 := by
    obtain ⟨-, -, -, -, -, -, -, htx, -⟩ := hs
    exact htx
  have hreleased := released_safe hs hj
  rw [h.1]
  exact hreleased

/-- The byte of the last cell of a frame is one of its bytes (43_transmission.md R204). -/
theorem lastCell_byte_lt (tr : Nat → Bool) (p : Timing) {b : List Byte} (hb : b.length ≤ Config.maxFrame) (t : Nat) :
    ((sendFrameAt tr p b t).lastCell b).1 < Config.maxFrame := by
  rw [sendFrameAt_eq, FrameDrive.lastCell]
  cases hhit : (driveCellsAt tr p (bitsOf b) t).hit with
  | none =>
    rw [Config.maxFrame] at hb ⊢
    exact show b.length - 1 < 255 by omega
  | some x =>
    obtain ⟨c, k⟩ := x
    have hk := driveCellsAt_hit_lt hhit
    rw [length_bitsOf] at hk
    exact show 0 + k / 8 < Config.maxFrame by omega

theorem exec_sendFrame_safe {s : State} (hs : s.safe) {b : List Byte} (hb : b.length ≤ Config.maxFrame) :
    Lands State.safe (exec (.sendFrame b) s) := by
  obtain ⟨t, hexec, hends⟩ := exec_sendFrame s b
  have hlt := lastCell_byte_lt s.releasedAt s.timing hb s.cycle
  have hj : t.txByteidx ≠ 255 := by
    rw [hends.txByteidx]
    rw [Config.maxFrame] at hlt
    bv_omega
  have hreleased := released_safe hs hj
  rw [hexec]
  show t.safe
  rw [hends.only.1]
  exact hreleased

/-- The bytes sampled so far stay stored. -/
theorem length_le_rxBytesAt (tr : Nat → Bool) (p : Timing) (k t : Nat) (got : List Byte) :
    got.length ≤ (rxBytesAt tr p k t got).bytes.length := by
  induction k generalizing t got with
  | zero => exact Nat.le_refl _
  | succ k ih =>
    simp only [rxBytesAt]
    split
    · exact Nat.le_refl _
    next b _ =>
      have hlonger : got.length ≤ (got ++ [b]).length := by simp
      exact Nat.le_trans hlonger (ih _ _)

/-- A complete reception has at least its tag byte (42_reception.md R185). -/
theorem rxFrameAt_complete_pos {tr : Nat → Bool} {p : Timing} {t : Nat}
    (h : (rxFrameAt tr p t).outcome = .complete) : 1 ≤ (rxFrameAt tr p t).bytes.length := by
  rcases rxFrameAt_ends tr p t with ⟨-, ho⟩ | ⟨n, -, -, -, ⟨-, ho⟩ | ⟨m, -, -, -, -, ⟨-, ho⟩ | ⟨-, ⟨-, ho⟩ |
    ⟨k, -, -, -, -, ho⟩⟩⟩⟩ <;> rw [ho] at h ⊢
  case inr.inr.inr.inr =>
    simp only [rxBodyAt] at h ⊢
    split
    next hfault =>
      rw [hfault] at h
      cases h
    next => exact length_le_rxBytesAt _ _ _ _ [_]
  all_goals cases h

theorem ringGains_of_reception (s : State) {o : RxTrace} (h : o.outcome = .complete → FrameSized o.bytes) :
    s.ringGains (if o.pushes (s.ringRoom o.bytes) then s.ring ++ [o.bytes] else s.ring) := by
  obtain ⟨hring, -⟩ := ring_after_reception s o
  rcases hring with hkept | ⟨hcomplete, hpushed, hused⟩
  · exact .inl hkept
  · rw [hpushed, ringUsed_push] at hused
    exact .inr ⟨o.bytes, h hcomplete, hused, hpushed⟩

theorem exec_rxFrame_safe {s : State} (hs : s.safe) : Lands State.safe (exec .rxFrame s) := by
  cases htrig : s.trig with
  | false =>
    rw [exec, execRxFrame, htrig]
    exact hs
  | true =>
    obtain ⟨hbegin, -, hlen⟩ := rxFrameAt_bounds s.lineAt s.timing s.cycle
    have hpos := @rxFrameAt_complete_pos s.lineAt s.timing s.cycle
    generalize ho : rxFrameAt s.lineAt s.timing s.cycle = o at hbegin hlen hpos
    obtain ⟨l, hexec⟩ := exec_rxFrame_eq htrig hbegin ho
    obtain ⟨⟨hbuf, -⟩, -⟩ := storedOk_of_safe hs
    have hstored : (s.storeCapture o.bytes).rxBuf.wf = true := Memory.wf_writeFrom hbuf (by rwa [Nat.zero_add])
    have hring := ringGains_of_reception s (fun hcomplete => ⟨hpos hcomplete, hlen⟩)
    have hreceived := safe_of_onlyRx (t := { s with
      rxActive := false
      rxPhase := 0
      rxCnt := 1
      rxBitidx := 0
      rxByteidx := BitVec.ofNat 8 o.bytes.length
      rxLen := (s.storeCapture o.bytes).rxLen
      rxBuf := (s.storeCapture o.bytes).rxBuf
      notify := true
      ring := if o.pushes (s.ringRoom o.bytes) then s.ring ++ [o.bytes] else s.ring }) hs rfl rfl hstored hring
      (fun h => absurd h Bool.false_ne_true) (fun h => absurd h Bool.false_ne_true)
    rw [hexec]
    exact hreceived

/-- An operation that runs on its own keeps the invariant; SEND_FRAME with a sequence that TX_FRAME could hold. -/
theorem exec_run_safe {s : State} (hs : s.safe) {i : Instr} (hk : kindOf i = .run)
    (hfits : ∀ b, i = .sendFrame b → b.length ≤ Config.maxFrame) : Lands State.safe (exec i s) := by
  cases i with
  | validate | init | submit | retrieve | readStatus | diagElec | diagTiming | diagYield | arbWaiting | arbListening
  | arbStarting | arbSending | arbReading => cases hk
  | decodeHeader | serialize | deserialize | inferGrade | frameStructured | frameGeneric => exact hs
  | sampleBit | sampleByte => exact (s.passIdle_reply_onlyTimePassed _ _ _).safe hs
  | driveBit | startFrame | sendByte => exact (s.driveWave_reply_onlyLineDriven _ _ _).safe hs
  | symSync | symBitsync | symBit0 | symBit1 | frameOnLine => exact (s.driveWave_reply_onlyLineDriven _ _ _).safe hs
  | sendFrame b => exact exec_sendFrame_safe hs (hfits b rfl)
  | rxFrame => exact exec_rxFrame_safe hs

/-! ### SEND_FRAME's record -/

theorem takeZ_length (n : Nat) (r : List Byte) : (takeZ n r).length = n := by
  induction n generalizing r with
  | zero => rfl
  | succ n ih => cases r <;> simp [takeZ, ih]

/-- The one-byte length field of SEND_FRAME's record gives at most 255 bytes (entry 5). -/
theorem length_of_decode_sendFrame {r b : List Byte} (h : decode r = .ok (.sendFrame b)) : b.length ≤ Config.maxFrame := by
  cases r with
  | nil => cases h
  | cons id r =>
    have hid : (0x2A : Byte) = id := decodeId_givesId id r _ h
    subst hid
    cases h
    have hlt := (byteAt r 0).isLt
    rw [sequence8, takeZ_length, Config.maxFrame]
    omega

/-! ### The step -/

theorem resetCycle_safe (s : State) : (resetCycle s).safe := State.resetWith_safe s.params

theorem cutByReset_safe (s : State) {t : State} (ht : t.safe) : (cutByReset s t).safe := by
  simp only [cutByReset]
  split
  · exact ht
  · exact resetCycle_safe _

theorem blockOp_safe {s : State} (hs : s.safe) {i : Instr} (hfits : ∀ b, i = .sendFrame b → b.length ≤ Config.maxFrame) :
    Lands State.safe (blockOp i s) := by
  cases hk : kindOf i with
  | run =>
    rw [blockOp_run s hk]
    exact (exec_run_safe hs hk hfits).andThen fun t ht => cutByReset_safe s ht
  | call =>
    rw [blockOp_call s hk]
    exact (prepared_exec (.refl hs) hk).andThen fun t ht => lands_clockOut (ht.clock_safe hs)
  | arb =>
    by_cases hown : arbStateOf i = some s.arbState
    · rw [blockOp_arb_own s hk hown]
      exact (prepared_exec_arb hs hk).andThen fun t ht => lands_clockOut (ht.clock_safe hs)
    · rw [blockOp_arb_other s hk hown]
      exact lands_clockOut ((Prepared.refl hs).clock_safe hs)

theorem blockCall_safe {s : State} (hs : s.safe) (c : Call) : Lands State.safe (blockCall c s) := by
  unfold blockCall
  split
  next i hi =>
    refine blockOp_safe hs fun b hb => ?_
    subst hb
    exact length_of_decode_sendFrame hi
  next => exact lands_clockOut (((Prepared.refl hs).answers _ _).clock_safe hs)

theorem runFetch_safe {s : State} (hs : s.safe) (f : Fetch) : Lands State.safe (runFetch f s) := by
  cases f with
  | idle => exact lands_clockOut ((Prepared.refl hs).clock_safe hs)
  | block c r => exact blockCall_safe (s := { s with calls := r }) hs c
  | host cs r => exact hostCalls_safe (s := { s with calls := r }) hs cs

/-- Settles O7: a cycle with reset ends in the reset state; in any other step the invariant holds after the calls, through the
agents' cycle, and after an operation that runs on its own. -/
theorem stepKeepsTheInvariant : Obligations.StepKeepsTheInvariant := by
  intro s t hs hstep
  have hsafe : Lands State.safe (step s) := by
    unfold step
    split
    · exact resetCycle_safe s
    · exact runFetch_safe hs s.fetch
  rw [hstep] at hsafe
  exact hsafe

end Sys2Proof.Machine
end
